-- ==== Sys2Proof/Word.lean ====
section
/-! DEFINITION. The words of the machine and their plainest arithmetic. -/

namespace Sys2Proof

/-- One byte of BUF (10_state.md R145). -/
abbrev Byte := BitVec 8

/-- One CSR, one command word or one count (00_scope.md R13, R17; 30_encoding.md R300). -/
abbrev Word := BitVec 32

/-- A symbol: a Unicode scalar value as a 21-bit code point (00_scope.md R21). -/
abbrev Sym := BitVec 21

/-- A node weight (00_scope.md R14). -/
abbrev Weight := BitVec 64

/-- A bit string, first bit first; `true` is 1 (00_scope.md R19). -/
abbrev Bits := List Bool

/-- The largest value a 32-bit field holds, `2^32 - 1` (00_scope.md R13, R15). -/
def maxU32 : Nat := 4294967295

/-- `ceil(x / 8)` is `(x + 7) div 8` (00_scope.md R27). -/
def ceilDiv8 (x : Nat) : Nat := (x + 7) / 8

end Sys2Proof
end

