-- ==== Sys2Proof/Config.lean ====
section
/-! DEFINITION. The free values: what the spec leaves open without end of the run (93_implementation_defined.md U1, U2, U3,
U6, U7). They have no body, so no proof can see them and every theorem holds whatever they are. -/

namespace Sys2Proof

/-- The byte at an address of BUF that nothing has written since power-on, for the power-on numbered by the first argument
(U3; log 2). -/
opaque Config.powerOnByte : Nat → Nat → Byte

/-- The word of a read with that draw number, where the spec calls the read unspecified (U1, U2; log 3). -/
opaque Config.freeWord : Nat → Word

/-- The byte at an address (second argument) of a destination region that a failed DECODE (U6) or a reset (U7) leaves
unspecified, for that draw number (logs 3, 11, 12). -/
opaque Config.freeByte : Nat → Nat → Byte

end Sys2Proof
end

