-- ==== Sys2Proof/Syntax.lean ====
section
/-! DEFINITION. The command set: one constructor per row of spec/opcode_table.json (30_encoding.md R303). -/

namespace Sys2Proof

/-- The eight commands. A command word has no operand field (30_encoding.md R306). -/
inductive Instr where
  /-- no operation (41_control_commands.md R450) -/
  | nop
  /-- release all tables (41_control_commands.md R451) -/
  | clear
  /-- count the symbols of a text (42_frequency_counter.md R510) -/
  | count
  /-- parse the frequency table of an artifact (46_decoder.md R700) -/
  | parseft
  /-- build the Huffman tree (43_tree_builder.md R550) -/
  | build
  /-- generate the code table (44_code_table.md R600) -/
  | gencode
  /-- compress a text (45_encoder.md R650) -/
  | encode
  /-- decompress an artifact (46_decoder.md R720) -/
  | decode
  deriving DecidableEq, Repr

end Sys2Proof
end

