-- ==== Sys2Proof/WellFormed.lean ====
section
/-! DEFINITION. The checks on syntax and data: commands, command words, symbols, counts and parameters. -/

namespace Sys2Proof

/-- Every command is well formed: it has no operand field (30_encoding.md R306). One line per constructor, so that a
new command cannot slip past. -/
def Instr.wf : Instr → Bool
  | .nop => true
  | .clear => true
  | .count => true
  | .parseft => true
  | .build => true
  | .gencode => true
  | .encode => true
  | .decode => true

/-- A command word is legal iff its reserved bits are 0 and its opcode is below 8 (30_encoding.md R302, R304). -/
def wordLegal (w : Word) : Bool := w.extractLsb' 4 28 == 0 && (w.extractLsb' 0 4).toNat < 8

/-- Unicode scalar values: every code point up to U+10FFFF but the surrogates (30_encoding.md R320). -/
def isScalar (v : Sym) : Bool := v.toNat < 0xD800 || (0xDFFF < v.toNat && v.toNat ≤ 0x10FFFF)

/-- A symbol the format can encode: a scalar value other than U+0000 (42_frequency_counter.md R502; 10_state.md R130). -/
def symOk (v : Sym) : Bool := isScalar v && v != 0

/-- The legal range of MAX_DISTINCT (00_scope.md R11). -/
def maxDistinctLegal (m : Word) : Bool := 1 ≤ m.toNat && m.toNat ≤ 1112063

/-- The legal range of BUF_SIZE (00_scope.md R12). -/
def bufSizeLegal (b : Word) : Bool := 1 ≤ b.toNat && b.toNat ≤ maxU32

end Sys2Proof
end

