-- ==== Sys2Proof/Decode.lean ====
section
/-! DEFINITION. The command decoder, total on any word, and the encoder (30_encoding.md R300 to R304; spec/opcode_table.json). -/

namespace Sys2Proof

/-- Why a command word is no command: the two causes of ILLEGAL_COMMAND. Neither stops the machine: the core completes
such a word with an error (60_exceptions.md R806). -/
inductive DecodeError where
  /-- `word[31:4] != 0`, ERR_SUB 1 (30_encoding.md R302) -/
  | reservedBits
  /-- the reserved bits are 0 and the opcode is in 0x8 to 0xF, ERR_SUB 2 (30_encoding.md R304) -/
  | reservedOpcode
  deriving DecidableEq, Repr

/-- Field RSV, bits 31:4 (30_encoding.md R300). -/
def fieldRsv (w : Word) : BitVec 28 := w.extractLsb' 4 28

/-- Field OP, bits 3:0 (30_encoding.md R301). -/
def fieldOp (w : Word) : BitVec 4 := w.extractLsb' 0 4

/-- The opcode map (30_encoding.md R303). -/
def opcodeMap (op : Nat) : Except DecodeError Instr :=
  match op with
  | 0 => .ok .nop
  | 1 => .ok .clear
  | 2 => .ok .count
  | 3 => .ok .parseft
  | 4 => .ok .build
  | 5 => .ok .gencode
  | 6 => .ok .encode
  | 7 => .ok .decode
  | _ => .error .reservedOpcode

/-- The decoder. The reserved bits are checked first (60_exceptions.md R806). -/
def decodeWord (w : Word) : Except DecodeError Instr :=
  if fieldRsv w ≠ 0 then .error .reservedBits else opcodeMap (fieldOp w).toNat

/-- ERR_SUB of ILLEGAL_COMMAND (60_exceptions.md R806). -/
def DecodeError.sub : DecodeError → Word
  | .reservedBits => 1
  | .reservedOpcode => 2

/-- The command word of a command (30_encoding.md R303, column "word"). -/
def encodeWord : Instr → Word
  | .nop => 0x00000000#32
  | .clear => 0x00000001#32
  | .count => 0x00000002#32
  | .parseft => 0x00000003#32
  | .build => 0x00000004#32
  | .gencode => 0x00000005#32
  | .encode => 0x00000006#32
  | .decode => 0x00000007#32

/-- The first `nbits` bits of `w` as a command word, the bits above them 0. A command is one 32-bit bus write, so there is
no byte order to apply (20_memory.md R204, R210; log 22). -/
def tableWord (nbits w : Nat) : Word := BitVec.ofNat 32 (w % 2 ^ nbits)

/-- The command the decoder reads from the first `nbits` bits of `w`, numbered as spec/opcode_table.json numbers them. -/
def decodeTableWord (nbits w : Nat) : Option Instr :=
  match decodeWord (tableWord nbits w) with
  | .ok i => some i
  | .error _ => none

end Sys2Proof
end

