-- ==== Sys2Proof/Machine/HostOp.lean ====
section
/-! DEFINITION. What the host can send: its bus operations, the reset input, and the pseudo-operations of the host syntax
(40_host_interface.md R400; 30_encoding.md R309, R310; 70_reset_and_hazards.md R900). -/

namespace Sys2Proof.Machine

/-- The two agents (10_state.md R100). -/
inductive Agent where
  | host
  | core
  deriving DecidableEq, Repr

/-- The width of a CSR access; only `word` is the interface's own (20_memory.md R207; log 17). -/
inductive AccessWidth where
  | byte
  | half
  /-- 32 bits -/
  | word
  /-- wider than 32 bits: `more + 2` words, so `wide 0` is 64 bits -/
  | wide (more : Nat)
  deriving DecidableEq, Repr

/-- How many 32-bit words hold the value of an access (log 17). -/
def AccessWidth.words : AccessWidth → Nat
  | .byte => 1
  | .half => 1
  | .word => 1
  | .wide more => more + 2

/-- One operation of the host program. -/
inductive HostOp where
  /-- CSR read at a byte offset of the 256-byte CSR space (40_host_interface.md R401) -/
  | csrRead (width : AccessWidth) (off : BitVec 8)
  /-- CSR write (40_host_interface.md R402); of a value wider than 32 bits `v` is the low word -/
  | csrWrite (width : AccessWidth) (off : BitVec 8) (v : Word)
  /-- BUF byte read (40_host_interface.md R410) -/
  | bufRead (a : Word)
  /-- BUF byte write of `v[7:0]` (40_host_interface.md R410) -/
  | bufWrite (a : Word) (v : Word)
  /-- the pseudo-operation `wait`: read STATUS until DONE reads 1 (30_encoding.md R310) -/
  | wait
  /-- sample the interrupt output (40_host_interface.md R400) -/
  | irqRead
  /-- wait for the interrupt output to be 1 (40_host_interface.md R430, row "finish"; 20_memory.md R222; log 6) -/
  | waitIrq
  /-- the hardware reset input (70_reset_and_hazards.md R900) -/
  | reset
  deriving DecidableEq, Repr

/-- `rd CSR` (30_encoding.md R309). -/
def hostRd (off : BitVec 8) : HostOp := .csrRead .word off

/-- `wr CSR, v` (30_encoding.md R309). -/
def hostWr (off : BitVec 8) (v : Word) : HostOp := .csrWrite .word off v

/-- `cmd MNEMONIC` (30_encoding.md R310). -/
def hostCmd (i : Instr) : HostOp := hostWr 0x14#8 (encodeWord i)

/-- `ack`: W1C of DONE (30_encoding.md R310). -/
def hostAck : HostOp := hostWr 0x18#8 0x00000002#32

/-- `load a, bytes` (30_encoding.md R310). -/
def hostLoad (a : Word) : List Byte → List HostOp
  | [] => []
  | b :: bs => .bufWrite a (b.setWidth 32) :: hostLoad (a + 1) bs

/-- A wide host store of `n` byte lanes: lane i goes to BUF[a + i], little-endian (20_memory.md R205; log 21). -/
def hostWideStore (a : Word) (v : BitVec 64) : Nat → List HostOp
  | 0 => []
  | n + 1 => .bufWrite a ((v.extractLsb' 0 8).setWidth 32) :: hostWideStore (a + 1) (v >>> 8) n

/-- A wide host load of `n` byte lanes, lane i from BUF[a + i] (20_memory.md R205; log 21). -/
def hostWideLoad (a : Word) : Nat → List HostOp
  | 0 => []
  | n + 1 => .bufRead a :: hostWideLoad (a + 1) n

end Sys2Proof.Machine
end

