-- ==== Sys2Proof/Machine/Params.lean ====
section
/-! DEFINITION. The values the two implementation parameters take in State.reset (log 1). Every statement about a state holds
for every value of them, since State holds them as its hardwired registers. -/

namespace Sys2Proof.Machine

/-- MAX_DISTINCT in State.reset: the value 95_test_vectors.md assumes (DESIGN CHOICE, log 1; 00_scope.md R11). -/
def maxDistinctAtReset : Word := 1112063#32

/-- BUF_SIZE in State.reset: the value the host programs of 95_test_vectors.md assume (DESIGN CHOICE, log 1; 00_scope.md R12). -/
def bufSizeAtReset : Word := 256#32

end Sys2Proof.Machine
end

