-- ==== Sys2Proof/Machine/State.lean ====
section
/-! DEFINITION. The state of the block as plain data, its reset value, and the reasons a step can stop. -/

namespace Sys2Proof.Machine

/-- The sequencer phase PHASE (10_state.md R102). -/
inductive Phase where
  | idle
  | busy
  deriving DecidableEq, Repr

/-- One entry of the frequency table FT (10_state.md R130). -/
structure FtEntry where
  sym : Sym
  count : Word
  deriving DecidableEq, Repr

/-- One entry of the arena NODE: a leaf with its symbol, or an internal node with the indices of its children and its
creation number (10_state.md R132; 43_tree_builder.md R560). -/
inductive Node where
  | leaf (weight : Weight) (sym : Sym)
  | internal (weight : Weight) (left right seq : Nat)
  deriving DecidableEq, Repr

/-- One entry of the code table CT (10_state.md R135). -/
structure CtEntry where
  sym : Sym
  code : Bits
  deriving DecidableEq, Repr

/-- BUF as the list of the bytes written since power-on, addresses strictly rising (log 2). -/
abbrev Memory := List Host.Cell

/-- The state. A table is present iff its valid flag is 1 (10_state.md R137; log 10). -/
structure State where
  /-- CFG_MAX_DISTINCT, hardwired (10_state.md R113) -/
  cfgMaxDistinct : Word
  /-- CFG_BUF_SIZE, hardwired (10_state.md R113) -/
  cfgBufSize : Word
  /-- PHASE (10_state.md R102) -/
  phase : Phase
  /-- CUR_OP, the command word in progress (40_host_interface.md R406) -/
  curOp : Word
  /-- CTRL.IRQ_EN (10_state.md R111) -/
  irqEn : Bool
  /-- STATUS.DONE (10_state.md R114) -/
  done : Bool
  /-- STATUS.DROPPED (10_state.md R114) -/
  dropped : Bool
  /-- ERR_CODE (10_state.md R116) -/
  errCode : Word
  /-- ERR_SUB (10_state.md R116) -/
  errSub : Word
  /-- ERR_INFO (10_state.md R116) -/
  errInfo : Word
  /-- SRC_ADDR (10_state.md R118) -/
  srcAddr : Word
  /-- SRC_LEN (10_state.md R119) -/
  srcLen : Word
  /-- DST_ADDR (10_state.md R120) -/
  dstAddr : Word
  /-- DST_CAP (10_state.md R121) -/
  dstCap : Word
  /-- RESULT_LEN (10_state.md R122) -/
  resultLen : Word
  /-- RESULT_AUX (10_state.md R122) -/
  resultAux : Word
  /-- TBL_SEL.SEL (10_state.md R124) -/
  tblSel : BitVec 2
  /-- TBL_IDX (10_state.md R124) -/
  tblIdx : Word
  /-- FT, present iff FT_VALID (10_state.md R130, R131, R137) -/
  ft : Option (List FtEntry)
  /-- NODE, present iff TREE_VALID (10_state.md R132, R133, R137) -/
  nodes : Option (List Node)
  /-- CT, present iff CT_VALID (10_state.md R135, R137) -/
  ct : Option (List CtEntry)
  /-- BUF (10_state.md R145) -/
  buf : Memory
  /-- the model's own: which power-on contents BUF has (93 U3; log 2) -/
  powerOn : Nat
  /-- the model's own: how many free values have been drawn (93 U1, U2, U6, U7; log 3) -/
  draws : Nat
  /-- the model's own: the host's pending operations, oldest first (log 6) -/
  hostOps : List HostOp
  /-- the model's own: the values the host's reads returned, oldest first (log 6) -/
  hostReads : List Word
  /-- the model's own: the agent that moves at each coming step while PHASE is BUSY (93 U10; log 7) -/
  schedule : List Agent
  deriving DecidableEq, Repr

/-- The reasons the machine stops with a fault: there is none. Every error of a command is a completion, and "no command
can fail in any other way" (60_exceptions.md R813), so the type is empty. -/
inductive Fault where
  deriving DecidableEq, Repr

/-- The reasons a step is refused. -/
inductive Refusal where
  /-- Raised by exec's arm of a command that has no meaning yet. Safe: nothing is claimed of it. -/
  | notModelled (mnemonic : String)
  /-- Raised by a host BUF access at an address at or above BUF_SIZE: "The spec gives it no meaning, and a model refuses
  it" (40_host_interface.md R411; 93 U5; log 9). Safe: the run stops. -/
  | outsideBuf
  /-- Raised by a host BUF access that breaks a host duty while PHASE is BUSY: a write into the running command's source
  region, or a read or write in its destination region (20_memory.md R223; 93 U4 "refuse"; log 8). Unsafe as 93 U4 says:
  it errs toward proving, since a claim says nothing of such a run. -/
  | hostDuty
  deriving DecidableEq, Repr

/-- The state right after reset (10_state.md R150), for a block with the two parameters given, BUF never written. -/
def State.resetWith (maxDistinct bufSize : Word) : State where
  cfgMaxDistinct := maxDistinct
  cfgBufSize := bufSize
  phase := .idle
  curOp := 0
  irqEn := false
  done := false
  dropped := false
  errCode := 0
  errSub := 0
  errInfo := 0
  srcAddr := 0
  srcLen := 0
  dstAddr := 0
  dstCap := 0
  resultLen := 0
  resultAux := 0
  tblSel := 0
  tblIdx := 0
  ft := none
  nodes := none
  ct := none
  buf := []
  powerOn := 0
  draws := 0
  hostOps := []
  hostReads := []
  schedule := []

/-- The state right after reset, with the parameters of Machine/Params.lean (log 1). -/
def State.reset : State := State.resetWith maxDistinctAtReset bufSizeAtReset

end Sys2Proof.Machine
end

