-- ==== Sys2Proof/Machine/Ops.lean ====
section
/-! DEFINITION. The shared operations: BUF bytes, free values, acceptance, and the two completions (an error completion is this
block's taking of an exception: 60_exceptions.md section 4). -/

namespace Sys2Proof.Machine

/-! ### BUF -/

/-- The byte the list holds at an address, if any was written there (log 2). -/
def Memory.get? : Memory → Nat → Option Byte
  | [], _ => none
  | (b, w) :: m, a => if a = b then some w else Memory.get? m a

/-- Store one byte, keeping the addresses strictly rising. -/
def Memory.write : Memory → Nat → Byte → Memory
  | [], a, v => [(a, v)]
  | (b, w) :: m, a, v =>
    if a < b then (a, v) :: (b, w) :: m
    else if a = b then (a, v) :: m
    else (b, w) :: Memory.write m a v

/-- Every address of the list is at least `lo`, and they rise strictly. -/
def Memory.risesFrom : Nat → Memory → Bool
  | _, [] => true
  | lo, (a, _) :: m => lo ≤ a && Memory.risesFrom (a + 1) m

/-- The canonical form: addresses strictly rising. An unlisted address holds no recorded byte, so no entry can equal what
an unlisted address holds (log 2). -/
def Memory.wf (m : Memory) : Bool := Memory.risesFrom 0 m

/-- Every address of the list is below `n`. -/
def Memory.below (n : Nat) : Memory → Bool
  | [] => true
  | (a, _) :: m => a < n && Memory.below n m

/-- Store the bytes of a list at rising addresses. -/
def Memory.writeList : Memory → Nat → List Byte → Memory
  | m, _, [] => m
  | m, a, b :: bs => Memory.writeList (Memory.write m a b) (a + 1) bs

/-- BUF[a]: the byte written last, or the free byte of power-on (10_state.md R145; 93 U3; log 2). The one definition of what
an unlisted address reads as. -/
def readByte (s : State) (a : Nat) : Byte :=
  match Memory.get? s.buf a with
  | some b => b
  | none => Config.powerOnByte s.powerOn a

/-- MemRead(addr, n) (00_scope.md R20): n byte accesses (20_memory.md R209). -/
def memRead (s : State) : (addr n : Nat) → List Byte
  | _, 0 => []
  | addr, n + 1 => readByte s addr :: memRead s (addr + 1) n

/-- MemWrite(addr, n, v) with n the length of v (00_scope.md R20). -/
def memWrite (addr : Nat) (bs : List Byte) (s : State) : State :=
  { s with buf := Memory.writeList s.buf addr bs }

/-- The bytes drawn for the addresses `a`, `a + 1`, … (93 U6, U7; log 3). -/
def drawBytes (draw : Nat) : (a n : Nat) → List Byte
  | _, 0 => []
  | a, n + 1 => Config.freeByte draw a :: drawBytes draw (a + 1) n

/-- How many bytes of a region of length `len` at `a` lie inside BUF. -/
def lengthInBuf (s : State) (a len : Nat) : Nat := min (a + len) s.cfgBufSize.toNat - a

/-- Every byte of the destination region becomes unspecified, each a draw, clipped to BUF (93 U6, U7; logs 11, 12). -/
def scribbleDest (s : State) : State :=
  { memWrite s.dstAddr.toNat
      (drawBytes s.draws s.dstAddr.toNat (lengthInBuf s s.dstAddr.toNat s.dstCap.toNat)) s with
    draws := s.draws + 1 }

/-! ### Errors -/

/-- The error kinds (60_exceptions.md R800). -/
inductive ErrKind where
  | emptyInput
  | unsupportedSymbol
  | countOverflow
  | malformedArtifact
  | corruptStream
  | illegalCommand
  | bufferRange
  | outputOverflow
  | capacityExceeded
  | sequenceError
  deriving DecidableEq, Repr

/-- ERR_CODE of each kind (60_exceptions.md R800). -/
def ErrKind.code : ErrKind → Word
  | .emptyInput => 1
  | .unsupportedSymbol => 2
  | .countOverflow => 3
  | .malformedArtifact => 4
  | .corruptStream => 5
  | .illegalCommand => 6
  | .bufferRange => 7
  | .outputOverflow => 8
  | .capacityExceeded => 9
  | .sequenceError => 10

/-- What `raise K(sub, info)` records (00_scope.md R20). -/
structure Err where
  kind : ErrKind
  sub : Word
  info : Word
  deriving DecidableEq, Repr

/-- `raise kind(sub, info)` with the numbers of a rule's pseudocode; every info is below 2^32 (log 15). -/
def err (kind : ErrKind) (sub info : Nat) : Err := ⟨kind, BitVec.ofNat 32 sub, BitVec.ofNat 32 info⟩

/-- The target tables of a command (60_exceptions.md R823). -/
structure Targets where
  ft : Bool
  nodes : Bool
  ct : Bool
  deriving DecidableEq, Repr

/-- The table of R823, by command; NOP and CLEAR cannot fail. -/
def targetsOf : Instr → Targets
  | .nop => ⟨false, false, false⟩
  | .clear => ⟨false, false, false⟩
  | .count => ⟨true, true, true⟩
  | .parseft => ⟨true, true, true⟩
  | .build => ⟨false, true, true⟩
  | .gencode => ⟨false, false, true⟩
  | .encode => ⟨true, true, true⟩
  | .decode => ⟨true, true, true⟩

/-- The row ILLEGAL_COMMAND of R823: none. -/
def noTargets : Targets := ⟨false, false, false⟩

/-- Clear the valid flags of the target tables (60_exceptions.md R823). -/
def invalidate (t : Targets) (s : State) : State :=
  { s with
    ft := if t.ft then none else s.ft
    nodes := if t.nodes then none else s.nodes
    ct := if t.ct then none else s.ct }

/-- Error completion (60_exceptions.md R820). -/
def raiseErr (t : Targets) (e : Err) (s : State) : State :=
  { invalidate t s with
    errCode := e.kind.code
    errSub := e.sub
    errInfo := e.info
    resultLen := 0
    resultAux := 0
    phase := .idle
    done := true }

/-- Successful completion, `complete(len, aux)` (60_exceptions.md R821). -/
def complete (len aux : Word) (s : State) : State :=
  { s with
    resultLen := len
    resultAux := aux
    phase := .idle
    done := true }

/-- A result number in its 32-bit register; every one fits (log 15). -/
def resultWord (n : Nat) : Word := BitVec.ofNat 32 n

/-! ### Acceptance -/

/-- `accept(w)` (40_host_interface.md R406). -/
def accept (w : Word) (s : State) : State :=
  { s with
    phase := .busy
    curOp := w
    done := false
    errCode := 0
    errSub := 0
    errInfo := 0
    resultLen := 0
    resultAux := 0 }

/-- The completion of an illegal word (60_exceptions.md R806). -/
def illegalCommand (e : DecodeError) (s : State) : State :=
  raiseErr noTargets ⟨.illegalCommand, e.sub, s.curOp⟩ s

end Sys2Proof.Machine
end

