-- ==== Sys2Proof/Machine/Operands.lean ====
section
/-! DEFINITION. The operands: the regions the operand CSRs give, their range checks, and the regions a host must leave alone
while a command runs. -/

namespace Sys2Proof.Machine

/-- `check_src()` (60_exceptions.md R812): exact, non-wrapping arithmetic (30_encoding.md R307). -/
def checkSrc (s : State) : Except Err Unit :=
  if s.srcAddr.toNat + s.srcLen.toNat > s.cfgBufSize.toNat then .error (err .bufferRange 1 0) else .ok ()

/-- `check_dst()` (60_exceptions.md R812). -/
def checkDst (s : State) : Except Err Unit :=
  if s.dstAddr.toNat + s.dstCap.toNat > s.cfgBufSize.toNat then .error (err .bufferRange 2 0) else .ok ()

/-- `check_overlap()` (60_exceptions.md R812; 20_memory.md R215). -/
def checkOverlap (s : State) : Except Err Unit :=
  if s.srcLen.toNat > 0 ∧ s.dstCap.toNat > 0
      ∧ s.srcAddr.toNat < s.dstAddr.toNat + s.dstCap.toNat ∧ s.dstAddr.toNat < s.srcAddr.toNat + s.srcLen.toNat then
    .error (err .bufferRange 3 0)
  else .ok ()

/-- The three range checks of ENCODE and DECODE, in their order (60_exceptions.md R812). -/
def checkRegions (s : State) : Except Err Unit := do
  checkSrc s
  checkDst s
  checkOverlap s

/-- The bytes of the source region (00_scope.md R24). -/
def sourceBytes (s : State) : List Byte := memRead s s.srcAddr.toNat s.srcLen.toNat

/-- `a` lies in the source region BUF[SRC_ADDR .. SRC_ADDR + SRC_LEN) (00_scope.md R24). -/
def inSource (s : State) (a : Nat) : Bool :=
  s.srcAddr.toNat ≤ a && a < s.srcAddr.toNat + s.srcLen.toNat

/-- `a` lies in the destination region BUF[DST_ADDR .. DST_ADDR + DST_CAP) (00_scope.md R24). -/
def inDest (s : State) (a : Nat) : Bool :=
  s.dstAddr.toNat ≤ a && a < s.dstAddr.toNat + s.dstCap.toNat

/-- The commands that read a source region (20_memory.md R213). -/
def readsSource : Instr → Bool
  | .nop => false
  | .clear => false
  | .count => true
  | .parseft => true
  | .build => false
  | .gencode => false
  | .encode => true
  | .decode => true

/-- The commands that write a destination region (20_memory.md R214). -/
def writesDest : Instr → Bool
  | .nop => false
  | .clear => false
  | .count => false
  | .parseft => false
  | .build => false
  | .gencode => false
  | .encode => true
  | .decode => true

/-- The command in progress reads a source region; an illegal word reads none (30_encoding.md R303). -/
def runningReadsSource (s : State) : Bool :=
  match decodeWord s.curOp with
  | .ok i => s.phase == .busy && readsSource i
  | .error _ => false

/-- The command in progress writes a destination region (30_encoding.md R303). -/
def runningWritesDest (s : State) : Bool :=
  match decodeWord s.curOp with
  | .ok i => s.phase == .busy && writesDest i
  | .error _ => false

/-- A host read of BUF[a] breaks a duty (20_memory.md R223; 93 U4; log 8). -/
def readBreaksDuty (s : State) (a : Nat) : Bool := runningWritesDest s && inDest s a

/-- A host write of BUF[a] breaks a duty (20_memory.md R223; 93 U4; log 8). -/
def writeBreaksDuty (s : State) (a : Nat) : Bool :=
  (runningReadsSource s && inSource s a) || (runningWritesDest s && inDest s a)

end Sys2Proof.Machine
end

