-- ==== Sys2Proof/Machine/Flags.lean ====
section
/-! DEFINITION. Every flag and count the host reads that is computed from the state: STATUS, FT_COUNT, NODE_COUNT, ROOT_IDX and
the interrupt output. -/

namespace Sys2Proof.Machine

/-- STATUS.BUSY always equals (PHASE = BUSY) (10_state.md R103). -/
def busyFlag (s : State) : Bool := s.phase == .busy

/-- STATUS.ERR always equals (ERR_CODE != 0) (10_state.md R114). -/
def errFlag (s : State) : Bool := s.errCode != 0

/-- STATUS.FT_VALID (10_state.md R114, R137). -/
def ftValid (s : State) : Bool := s.ft.isSome

/-- STATUS.TREE_VALID (10_state.md R114, R137). -/
def treeValid (s : State) : Bool := s.nodes.isSome

/-- STATUS.CT_VALID (10_state.md R114, R137). -/
def ctValid (s : State) : Bool := s.ct.isSome

/-- One bit as a word of its own. -/
def bit (b : Bool) (i : Nat) : Word := if b then 1#32 <<< i else 0#32

/-- The bits of STATUS that are exact in both phases (10_state.md R114; 93 U1). -/
def statusExact (s : State) : Word :=
  bit (busyFlag s) 0 ||| bit s.done 1 ||| bit (errFlag s) 2 ||| bit s.dropped 6

/-- The valid flags as STATUS bits 5:3 (10_state.md R114). -/
def statusValid (s : State) : Word :=
  bit (ftValid s) 3 ||| bit (treeValid s) 4 ||| bit (ctValid s) 5

/-- STATUS while PHASE is IDLE (10_state.md R114). -/
def statusWord (s : State) : Word := statusExact s ||| statusValid s

/-- STATUS while PHASE is BUSY: bits 5:3 are those of a free word (10_state.md R142; 93 U1). -/
def statusWhileBusy (s : State) : Word := statusExact s ||| (Config.freeWord s.draws &&& 0x38#32)

/-- n, the number of FT entries, or 0 without a table (10_state.md R123). -/
def ftCount (s : State) : Nat :=
  match s.ft with
  | some f => f.length
  | none => 0

/-- NODE_COUNT (10_state.md R123). -/
def nodeCount (s : State) : Nat := if treeValid s then 2 * ftCount s - 1 else 0

/-- ROOT_IDX: 2n - 2, which is 0 for n = 1 (10_state.md R123). -/
def rootIdx (s : State) : Nat := if treeValid s then 2 * ftCount s - 2 else 0

/-- The interrupt output, `irq = CTRL.IRQ_EN and STATUS.DONE` (60_exceptions.md R830). -/
def irq (s : State) : Bool := s.irqEn && s.done

end Sys2Proof.Machine
end

