-- ==== Sys2Proof/Machine/TreeBuilder.lean ====
section
/-! DEFINITION. The Huffman Tree Builder and the command BUILD (43_tree_builder.md). -/

namespace Sys2Proof.Machine

/-- The weight of a node (10_state.md R132). -/
def Node.weight : Node → Weight
  | .leaf w _ => w
  | .internal w _ _ _ => w

/-- A node is a leaf iff it has no children (10_state.md R134). -/
def Node.isLeaf : Node → Bool
  | .leaf _ _ => true
  | .internal _ _ _ _ => false

/-- key(x): weight, then leaves before internal nodes, then symbol or seq (43_tree_builder.md R560). -/
def Node.key : Node → Nat × Nat × Nat
  | .leaf w sym => (w.toNat, 0, sym.toNat)
  | .internal w _ _ seq => (w.toNat, 1, seq)

/-- Keys compare lexicographically, smaller first (43_tree_builder.md R560). -/
def keyLt (a b : Nat × Nat × Nat) : Bool :=
  a.1 < b.1 || (a.1 == b.1 && (a.2.1 < b.2.1 || (a.2.1 == b.2.1 && a.2.2 < b.2.2)))

/-- Extract the pool member with the least key: it and the rest of the pool. A member is a node with its index
(43_tree_builder.md R561). -/
def takeLeast : List (Node × Nat) → Option ((Node × Nat) × List (Node × Nat))
  | [] => none
  | x :: xs =>
    match takeLeast xs with
    | none => some (x, [])
    | some (y, ys) => if keyLt x.1.key y.1.key then some (x, xs) else some (y, x :: ys)

/-- The node a merge creates: the first-extracted node is the left child (43_tree_builder.md R561, R562). The sum
never wraps (00_scope.md R14; log 23). -/
def mergeNode (a b : Node × Nat) (k : Nat) : Node := .internal (a.1.weight + b.1.weight) a.2 b.2 k

/-- The merges `k`, `k + 1`, …, as many as the first argument says (43_tree_builder.md R561). The new node's index n + k is
the number of nodes before it. -/
def mergeLoop : (merges k : Nat) → (nodes : List Node) → (pool : List (Node × Nat)) → List Node
  | 0, _, nodes, _ => nodes
  | m + 1, k, nodes, pool =>
    match takeLeast pool with
    | none => nodes
    | some (a, pool1) =>
      match takeLeast pool1 with
      | none => nodes
      | some (b, pool2) =>
        mergeLoop m (k + 1) (nodes ++ [mergeNode a b k]) (pool2 ++ [(mergeNode a b k, nodes.length)])

/-- The leaves, one per FT entry in FT order (43_tree_builder.md R561; 10_state.md R133). -/
def leavesOf (f : List FtEntry) : List Node := f.map (fun e => .leaf (e.count.setWidth 64) e.sym)

/-- `build_tree(FT)` (43_tree_builder.md R561, R563, R564). -/
def buildTree (f : List FtEntry) : Except Err (List Node) :=
  if f.isEmpty then .error (err .emptyInput 0 0)
  else .ok (mergeLoop (f.length - 1) 0 (leavesOf f) (leavesOf f).zipIdx)

/-- The root is the last node: NODE[2n - 2], which is NODE[0] for n = 1 (10_state.md R133). -/
def rootOf (nodes : List Node) : Nat := nodes.length - 1

/-- What BUILD computes before it completes: FT's length and NODE (43_tree_builder.md R550). -/
def buildCommand (s : State) : Except Err (Nat × List Node) :=
  match s.ft with
  | none => .error (err .sequenceError 1 0)
  | some f =>
    match buildTree f with
    | .error e => .error e
    | .ok nodes => .ok (f.length, nodes)

/-- BUILD (43_tree_builder.md R550). -/
def execBuild (s : State) : Host.Outcome State Fault Refusal :=
  match buildCommand s with
  | .error e => .next (raiseErr (targetsOf .build) e s)
  | .ok (n, nodes) =>
    .next (complete 0 (resultWord (2 * n - 1)) { s with nodes := some nodes, ct := none })

end Sys2Proof.Machine
end

