-- ==== Sys2Proof/Machine/Window.lean ====
section
/-! DEFINITION. The table window TBL_D0 to TBL_D4 (40_host_interface.md R420 to R423). -/

namespace Sys2Proof.Machine

/-- The five words of the window (10_state.md R125). -/
structure WindowWords where
  d0 : Word
  d1 : Word
  d2 : Word
  d3 : Word
  d4 : Word
  deriving DecidableEq, Repr

/-- All five words read 0 (40_host_interface.md R420). -/
def windowZero : WindowWords := ⟨0, 0, 0, 0, 0⟩

/-- The FT view (40_host_interface.md R421). -/
def ftView (e : FtEntry) : WindowWords := ⟨e.sym.setWidth 32, e.count, 0, 0, 0⟩

/-- The NODE view (40_host_interface.md R422). -/
def nodeView : Node → WindowWords
  | .leaf w sym =>
    ⟨w.extractLsb' 0 32, w.extractLsb' 32 32, 0x80000000#32 ||| sym.setWidth 32, 0xFFFFFFFF#32, 0xFFFFFFFF#32⟩
  | .internal w l r _ => ⟨w.extractLsb' 0 32, w.extractLsb' 32 32, 0, BitVec.ofNat 32 l, BitVec.ofNat 32 r⟩

/-- The first 32 bits of a bit string as a word, first bit in bit 31, missing bits 0: `n` bits are still to come. -/
def bitsWordFrom : (n : Nat) → Bits → Word
  | 0, _ => 0
  | _ + 1, [] => 0
  | n + 1, b :: bs => bit b n ||| bitsWordFrom n bs

/-- Code bits 32k to 32k + 31 of a code (40_host_interface.md R423). -/
def codeWord (code : Bits) (k : Nat) : Word := bitsWordFrom 32 (code.drop (32 * k))

/-- The CT view (40_host_interface.md R423). -/
def ctView (e : CtEntry) : WindowWords :=
  ⟨e.sym.setWidth 32, BitVec.ofNat 32 e.code.length, codeWord e.code 0, codeWord e.code 1, codeWord e.code 2⟩

/-- Entry `i` of a table that has `n` entries and is absent when its valid flag is 0 (40_host_interface.md R420). -/
def windowEntry {α : Type} (table : Option (List α)) (n i : Nat) (view : α → WindowWords) : WindowWords :=
  match table with
  | none => windowZero
  | some t =>
    if i < n then
      match t[i]? with
      | some e => view e
      | none => windowZero
    else windowZero

/-- The window (40_host_interface.md R420). -/
def window (s : State) : WindowWords :=
  match s.tblSel.toNat with
  | 0 => windowEntry s.ft (ftCount s) s.tblIdx.toNat ftView
  | 1 => windowEntry s.nodes (nodeCount s) s.tblIdx.toNat nodeView
  | 2 => windowEntry s.ct (ftCount s) s.tblIdx.toNat ctView
  | _ => windowZero

end Sys2Proof.Machine
end

