-- ==== Sys2Proof/Machine/Bus.lean ====
section
/-! DEFINITION. The host's operations: the CSR map, CSR reads and writes, BUF bytes and reset (10_state.md section 3;
40_host_interface.md; 70_reset_and_hazards.md section 1). -/

namespace Sys2Proof.Machine

/-- The listed CSRs (10_state.md R110). -/
inductive Csr where
  | id
  | version
  | cfgMaxDistinct
  | cfgBufSize
  | ctrl
  | cmd
  | status
  | errCode
  | errSub
  | errInfo
  | srcAddr
  | srcLen
  | dstAddr
  | dstCap
  | resultLen
  | resultAux
  | ftCount
  | nodeCount
  | rootIdx
  | tblSel
  | tblIdx
  | tblD0
  | tblD1
  | tblD2
  | tblD3
  | tblD4
  deriving DecidableEq, Repr

/-- The CSR at a word offset; every offset not listed is RAZ/WI (10_state.md R110). -/
def csrAt (off : BitVec 8) : Option Csr :=
  match off.toNat with
  | 0x00 => some .id
  | 0x04 => some .version
  | 0x08 => some .cfgMaxDistinct
  | 0x0C => some .cfgBufSize
  | 0x10 => some .ctrl
  | 0x14 => some .cmd
  | 0x18 => some .status
  | 0x1C => some .errCode
  | 0x20 => some .errSub
  | 0x24 => some .errInfo
  | 0x28 => some .srcAddr
  | 0x2C => some .srcLen
  | 0x30 => some .dstAddr
  | 0x34 => some .dstCap
  | 0x38 => some .resultLen
  | 0x3C => some .resultAux
  | 0x40 => some .ftCount
  | 0x44 => some .nodeCount
  | 0x48 => some .rootIdx
  | 0x4C => some .tblSel
  | 0x50 => some .tblIdx
  | 0x54 => some .tblD0
  | 0x58 => some .tblD1
  | 0x5C => some .tblD2
  | 0x60 => some .tblD3
  | 0x64 => some .tblD4
  | _ => none

/-- A 32-bit access at a multiple of 4 (20_memory.md R207). -/
def csrAccessOk (width : AccessWidth) (off : BitVec 8) : Bool := width == .word && off.toNat % 4 == 0

/-- The value of a CSR while PHASE is IDLE (10_state.md R110 to R125; 40_host_interface.md R401). -/
def csrIdleValue (s : State) : Csr → Word
  | .id => 0x48554646#32
  | .version => 0x00000001#32
  | .cfgMaxDistinct => s.cfgMaxDistinct
  | .cfgBufSize => s.cfgBufSize
  | .ctrl => bit s.irqEn 0
  | .cmd => 0
  | .status => statusWord s
  | .errCode => s.errCode
  | .errSub => s.errSub
  | .errInfo => s.errInfo
  | .srcAddr => s.srcAddr
  | .srcLen => s.srcLen
  | .dstAddr => s.dstAddr
  | .dstCap => s.dstCap
  | .resultLen => s.resultLen
  | .resultAux => s.resultAux
  | .ftCount => BitVec.ofNat 32 (ftCount s)
  | .nodeCount => BitVec.ofNat 32 (nodeCount s)
  | .rootIdx => BitVec.ofNat 32 (rootIdx s)
  | .tblSel => s.tblSel.setWidth 32
  | .tblIdx => s.tblIdx
  | .tblD0 => (window s).d0
  | .tblD1 => (window s).d1
  | .tblD2 => (window s).d2
  | .tblD3 => (window s).d3
  | .tblD4 => (window s).d4

/-- The value of a CSR while PHASE is BUSY: the reads of R142 are free values, the others exact (10_state.md R142; 93 U1;
log 3). -/
def csrBusyValue (s : State) (c : Csr) : Word :=
  match c with
  | .status => statusWhileBusy s
  | .ftCount => Config.freeWord s.draws
  | .nodeCount => Config.freeWord s.draws
  | .rootIdx => Config.freeWord s.draws
  | .tblD0 => Config.freeWord s.draws
  | .tblD1 => Config.freeWord s.draws
  | .tblD2 => Config.freeWord s.draws
  | .tblD3 => Config.freeWord s.draws
  | .tblD4 => Config.freeWord s.draws
  | _ => csrIdleValue s c

/-- The CSRs that read unspecified bits while PHASE is BUSY (10_state.md R142). -/
def csrOpenWhileBusy : Csr → Bool
  | .status => true
  | .ftCount => true
  | .nodeCount => true
  | .rootIdx => true
  | .tblD0 => true
  | .tblD1 => true
  | .tblD2 => true
  | .tblD3 => true
  | .tblD4 => true
  | _ => false

/-- The value a CSR read returns (40_host_interface.md R401; 20_memory.md R207). -/
def csrReadValue (s : State) (width : AccessWidth) (off : BitVec 8) : Word :=
  if csrAccessOk width off then
    match csrAt off with
    | none => 0
    | some c =>
      match s.phase with
      | .idle => csrIdleValue s c
      | .busy => csrBusyValue s c
  else Config.freeWord s.draws

/-- The next `n` free words (log 3). -/
def freeWords (draw : Nat) : (n : Nat) → List Word
  | 0 => []
  | n + 1 => Config.freeWord draw :: freeWords (draw + 1) n

/-- The words a CSR read of any width returns, low word first (40_host_interface.md R401; 20_memory.md R207; log 17). -/
def csrReadWords (s : State) (width : AccessWidth) (off : BitVec 8) : List Word :=
  if csrAccessOk width off then [csrReadValue s width off] else freeWords s.draws width.words

/-- How many free values the read takes (93 U1, U2). -/
def csrReadDraws (s : State) (width : AccessWidth) (off : BitVec 8) : Nat :=
  if csrAccessOk width off then
    match csrAt off with
    | none => 0
    | some c => if s.phase == .busy && csrOpenWhileBusy c then 1 else 0
  else width.words

/-- Hand the words of a read to the host (log 6). -/
def giveHost (vs : List Word) (s : State) : State := { s with hostReads := s.hostReads ++ vs }

/-- CSR read. Its only effect is the value handed to the host, and the count of free values (20_memory.md R211; log 3). -/
def csrRead (width : AccessWidth) (off : BitVec 8) (s : State) : State :=
  giveHost (csrReadWords s width off) { s with draws := s.draws + csrReadDraws s width off }

/-- `drop(off)` (40_host_interface.md R405). -/
def dropWrite (s : State) : State := { s with dropped := true }

/-- `W1C(v)` (40_host_interface.md R407). -/
def statusW1C (v : Word) (s : State) : State :=
  { s with
    done := if v.getLsbD 1 then false else s.done
    dropped := if v.getLsbD 6 then false else s.dropped }

/-- A write that takes effect only while PHASE is IDLE and is dropped while BUSY (40_host_interface.md R402, R405). -/
def idleWrite (f : State → State) (s : State) : State :=
  match s.phase with
  | .idle => f s
  | .busy => dropWrite s

/-- A 32-bit write to a listed CSR (40_host_interface.md R402 to R407). -/
def csrWriteTo (v : Word) (s : State) : Csr → State
  | .cmd => idleWrite (accept v) s
  | .srcAddr => idleWrite (fun s => { s with srcAddr := v }) s
  | .srcLen => idleWrite (fun s => { s with srcLen := v }) s
  | .dstAddr => idleWrite (fun s => { s with dstAddr := v }) s
  | .dstCap => idleWrite (fun s => { s with dstCap := v }) s
  | .ctrl => { s with irqEn := v.getLsbD 0 }
  | .status => statusW1C v s
  | .tblSel => { s with tblSel := v.extractLsb' 0 2 }
  | .tblIdx => { s with tblIdx := v }
  | .id => s
  | .version => s
  | .cfgMaxDistinct => s
  | .cfgBufSize => s
  | .errCode => s
  | .errSub => s
  | .errInfo => s
  | .resultLen => s
  | .resultAux => s
  | .ftCount => s
  | .nodeCount => s
  | .rootIdx => s
  | .tblD0 => s
  | .tblD1 => s
  | .tblD2 => s
  | .tblD3 => s
  | .tblD4 => s

/-- CSR write; one that is not an aligned 32-bit access is ignored (20_memory.md R207). -/
def csrWrite (width : AccessWidth) (off : BitVec 8) (v : Word) (s : State) : State :=
  if csrAccessOk width off then
    match csrAt off with
    | none => s
    | some c => csrWriteTo v s c
  else s

/-- BUF byte read (40_host_interface.md R410, R411; 20_memory.md R223, R224). -/
def bufRead (a : Word) (s : State) : Host.Outcome State Fault Refusal :=
  if a.toNat ≥ s.cfgBufSize.toNat then .refused .outsideBuf
  else if readBreaksDuty s a.toNat then .refused .hostDuty
  else .next (giveHost [(readByte s a.toNat).setWidth 32] s)

/-- BUF byte write of `v[7:0]` (40_host_interface.md R410, R411; 20_memory.md R223, R224). -/
def bufWrite (a v : Word) (s : State) : Host.Outcome State Fault Refusal :=
  if a.toNat ≥ s.cfgBufSize.toNat then .refused .outsideBuf
  else if writeBreaksDuty s a.toNat then .refused .hostDuty
  else .next { s with buf := Memory.write s.buf a.toNat (v.extractLsb' 0 8) }

/-- `wait` reads STATUS once; while DONE reads 0 it stays the next operation (30_encoding.md R310). -/
def waitOnce (s : State) : State :=
  if s.done then csrRead .word 0x18#8 s
  else { csrRead .word 0x18#8 s with hostOps := .wait :: s.hostOps }

/-- The host samples the interrupt output (40_host_interface.md R400; 60_exceptions.md R830). -/
def irqRead (s : State) : State := giveHost [bit (irq s) 0] s

/-- The host waits for the interrupt output: while it is 0, `waitIrq` stays the next operation (40_host_interface.md R430;
log 6). -/
def waitIrqOnce (s : State) : State := if irq s then s else { s with hostOps := .waitIrq :: s.hostOps }

/-- Hardware reset: every CSR and table as in R150, BUF kept, but for the destination region of a command it ends, which is
unspecified (10_state.md R150; 70_reset_and_hazards.md R900, R901; 93 U7; log 12). The host's program goes on (log 6). -/
def hwReset (s : State) : State :=
  let t := if runningWritesDest s then scribbleDest s else s
  { State.resetWith s.cfgMaxDistinct s.cfgBufSize with
    buf := t.buf
    powerOn := s.powerOn
    draws := t.draws
    hostOps := s.hostOps
    hostReads := s.hostReads
    schedule := s.schedule }

/-- One host operation (40_host_interface.md R400). -/
def hostAct (op : HostOp) (s : State) : Host.Outcome State Fault Refusal :=
  match op with
  | .csrRead width off => .next (csrRead width off s)
  | .csrWrite width off v => .next (csrWrite width off v s)
  | .bufRead a => bufRead a s
  | .bufWrite a v => bufWrite a v s
  | .wait => .next (waitOnce s)
  | .irqRead => .next (irqRead s)
  | .waitIrq => .next (waitIrqOnce s)
  | .reset => .next (hwReset s)

/-- The host's next operation, taken off its program (20_memory.md R220). -/
def hostStep (s : State) : Host.Outcome State Fault Refusal :=
  match s.hostOps with
  | [] => .next s
  | op :: rest => hostAct op { s with hostOps := rest }

/-- The agent that moves next. While IDLE only the host has something to do; while BUSY the schedule decides, and the core
moves when the schedule is at its end or the host has nothing to do (10_state.md R100; 70_reset_and_hazards.md R930, R931;
log 7). -/
def nextAgent (s : State) : Agent :=
  match s.phase with
  | .idle => .host
  | .busy =>
    match s.schedule, s.hostOps with
    | .host :: _, _ :: _ => .host
    | _, _ => .core

/-- While BUSY a step uses up one entry of the schedule (log 7). -/
def useSchedule (s : State) : State :=
  match s.phase with
  | .idle => s
  | .busy => { s with schedule := s.schedule.tail }

/-- The command word `w` accepted, and the core the next to move: what a host's CMD write of it leaves (40_host_interface.md
R406; log 6). -/
def placeCommand (w : Word) (s : State) : State :=
  { accept w s with schedule := .core :: s.schedule }

end Sys2Proof.Machine
end

