-- ==== Sys2Proof/Machine/CodeTable.lean ====
section
/-! DEFINITION. The Code Table Generator and the command GENCODE (44_code_table.md). -/

namespace Sys2Proof.Machine

/-- `walk(x, c)`: the leaf indices below node `x` with their codes (44_code_table.md R601). `fuel` bounds the depth; the walk
visits at most 2n - 1 nodes (70_reset_and_hazards.md R931). -/
def walkCodes (nodes : List Node) : (fuel x : Nat) → (c : Bits) → List (Nat × Bits)
  | 0, _, _ => []
  | fuel + 1, x, c =>
    match nodes[x]? with
    | some (.leaf _ _) => [(x, c)]
    | some (.internal _ l r _) => walkCodes nodes fuel l (c ++ [false]) ++ walkCodes nodes fuel r (c ++ [true])
    | none => []

/-- The code a walk gave to a leaf index. In a tree that build_tree made, every leaf has one (log 14). -/
def codeOfLeaf (i : Nat) : List (Nat × Bits) → Bits
  | [] => []
  | (j, c) :: rest => if j = i then c else codeOfLeaf i rest

/-- CT from the leaves in index order and the codes of the walk. -/
def ctEntries (codes : List (Nat × Bits)) : List (Node × Nat) → List CtEntry
  | [] => []
  | (.leaf _ sym, i) :: rest => ⟨sym, codeOfLeaf i codes⟩ :: ctEntries codes rest
  | (.internal _ _ _ _, _) :: rest => ctEntries codes rest

/-- `gen_codes(NODE, root)` (44_code_table.md R601, R602). -/
def genCodes (nodes : List Node) : List CtEntry :=
  ctEntries (walkCodes nodes nodes.length (rootOf nodes) []) nodes.zipIdx

/-- The longest code length (44_code_table.md R600). -/
def longestCode : List CtEntry → Nat
  | [] => 0
  | e :: rest => max e.code.length (longestCode rest)

/-- GENCODE (44_code_table.md R600). -/
def execGencode (s : State) : Host.Outcome State Fault Refusal :=
  match s.nodes with
  | none => .next (raiseErr (targetsOf .gencode) (err .sequenceError 2 0) s)
  | some nodes =>
    .next (complete 0 (resultWord (longestCode (genCodes nodes))) { s with ct := some (genCodes nodes) })

end Sys2Proof.Machine
end

