-- ==== Sys2Proof/Machine/Control.lean ====
section
/-! DEFINITION. The control commands NOP and CLEAR (41_control_commands.md). -/

namespace Sys2Proof.Machine

/-- NOP (41_control_commands.md R450). -/
def execNop (s : State) : Host.Outcome State Fault Refusal := .next (complete 0 0 s)

/-- CLEAR (41_control_commands.md R451). -/
def execClear (s : State) : Host.Outcome State Fault Refusal :=
  .next (complete 0 0 { s with ft := none, nodes := none, ct := none })

end Sys2Proof.Machine
end

