-- ==== Sys2Proof/Machine/Utf8.lean ====
section
/-! DEFINITION. UTF-8 (30_encoding.md R320 to R322). -/

namespace Sys2Proof.Machine

/-- The well-formedness table of R320, one row of byte ranges per line. -/
def utf8Rows : List (List (Nat × Nat)) :=
  [ [(0x00, 0x7F)],
    [(0xC2, 0xDF), (0x80, 0xBF)],
    [(0xE0, 0xE0), (0xA0, 0xBF), (0x80, 0xBF)],
    [(0xE1, 0xEC), (0x80, 0xBF), (0x80, 0xBF)],
    [(0xED, 0xED), (0x80, 0x9F), (0x80, 0xBF)],
    [(0xEE, 0xEF), (0x80, 0xBF), (0x80, 0xBF)],
    [(0xF0, 0xF0), (0x90, 0xBF), (0x80, 0xBF), (0x80, 0xBF)],
    [(0xF1, 0xF3), (0x80, 0xBF), (0x80, 0xBF), (0x80, 0xBF)],
    [(0xF4, 0xF4), (0x80, 0x8F), (0x80, 0xBF), (0x80, 0xBF)] ]

/-- The bytes begin with one byte in each range of a row; a sequence that ends too early matches no row. -/
def rowMatches : List (Nat × Nat) → List Byte → Bool
  | [], _ => true
  | (lo, hi) :: row, b :: bs => lo ≤ b.toNat && b.toNat ≤ hi && rowMatches row bs
  | _ :: _, [] => false

/-- The scalar value of a sequence by its length L (30_encoding.md R320). -/
def utf8Value : (len : Nat) → List Byte → Sym
  | 1, b0 :: _ => b0.setWidth 21
  | 2, b0 :: b1 :: _ => (b0.extractLsb' 0 5 ++ b1.extractLsb' 0 6).setWidth 21
  | 3, b0 :: b1 :: b2 :: _ => (b0.extractLsb' 0 4 ++ b1.extractLsb' 0 6 ++ b2.extractLsb' 0 6).setWidth 21
  | 4, b0 :: b1 :: b2 :: b3 :: _ =>
    b0.extractLsb' 0 3 ++ b1.extractLsb' 0 6 ++ b2.extractLsb' 0 6 ++ b3.extractLsb' 0 6
  | _, _ => 0

/-- `utf8_at`: the scalar value at the head of the bytes and its length, or none for ILLFORMED (30_encoding.md R320). -/
def utf8At (bs : List Byte) : Option (Sym × Nat) :=
  match utf8Rows.find? (fun row => rowMatches row bs) with
  | some row => some (utf8Value row.length bs, row.length)
  | none => none

/-- `utf8len(v)` (30_encoding.md R321). -/
def utf8len (v : Sym) : Nat :=
  if v.toNat ≤ 0x7F then 1 else if v.toNat ≤ 0x7FF then 2 else if v.toNat ≤ 0xFFFF then 3 else 4

/-- A continuation byte 10xxxxxx. -/
def contByte (x : BitVec 6) : Byte := 0b10#2 ++ x

/-- `utf8(v)` (30_encoding.md R321). -/
def utf8 (v : Sym) : List Byte :=
  match utf8len v with
  | 1 => [v.setWidth 8]
  | 2 => [0b110#3 ++ v.extractLsb' 6 5, contByte (v.extractLsb' 0 6)]
  | 3 => [0b1110#4 ++ v.extractLsb' 12 4, contByte (v.extractLsb' 6 6), contByte (v.extractLsb' 0 6)]
  | _ => [0b11110#5 ++ v.extractLsb' 18 3, contByte (v.extractLsb' 12 6), contByte (v.extractLsb' 6 6),
          contByte (v.extractLsb' 0 6)]

/-- The symbol sequence of a text, `utf8_at` applied from the first byte to the last: each symbol with the offset of its
first byte, and `none` at an ill-formed sequence, where the reading ends (30_encoding.md R322; 42_frequency_counter.md R500).
`skip` counts the bytes of the current symbol still to pass over. -/
def textSymbols : (skip o : Nat) → List Byte → List (Nat × Option Sym)
  | _, _, [] => []
  | skip + 1, o, _ :: bs => textSymbols skip (o + 1) bs
  | 0, o, b :: bs =>
    match utf8At (b :: bs) with
    | some (v, len) => (o, some v) :: textSymbols (len - 1) (o + 1) bs
    | none => [(o, none)]

end Sys2Proof.Machine
end

