-- ==== Sys2Proof/Machine/Counter.lean ====
section
/-! DEFINITION. The Frequency Counter and the command COUNT (42_frequency_counter.md). -/

namespace Sys2Proof.Machine

/-- F[v], if v is in F (42_frequency_counter.md R500). -/
def ftLookup (v : Sym) : List FtEntry → Option Word
  | [] => none
  | e :: f => if e.sym = v then some e.count else ftLookup v f

/-- F[v] <- c, the entries kept in ascending order of symbol (10_state.md R131; log 13). -/
def ftSet (v : Sym) (c : Word) : List FtEntry → List FtEntry
  | [] => [⟨v, c⟩]
  | e :: f =>
    if v.toNat < e.sym.toNat then ⟨v, c⟩ :: e :: f
    else if v = e.sym then ⟨v, c⟩ :: f
    else e :: ftSet v c f

/-- The loop of `count_text` over the symbols of the text, the checks of one symbol in the order of R501
(42_frequency_counter.md R500, R501). -/
def countLoop (maxDistinct : Nat) :
    List (Nat × Option Sym) → (f : List FtEntry) → (total : Nat) → Except Err (List FtEntry × Nat)
  | [], f, total => .ok (f, total)
  | (o, none) :: _, _, _ => .error (err .unsupportedSymbol 1 o)
  | (o, some v) :: rest, f, total =>
    if v = 0 then .error (err .unsupportedSymbol 2 o)
    else
      match ftLookup v f with
      | none =>
        if f.length = maxDistinct then .error (err .capacityExceeded 0 o)
        else countLoop maxDistinct rest (ftSet v 1 f) (total + 1)
      | some c =>
        if c.toNat = maxU32 then .error (err .countOverflow 2 o)
        else countLoop maxDistinct rest (ftSet v (c + 1) f) (total + 1)

/-- `count_text` on the bytes of the text (42_frequency_counter.md R500). -/
def countText (maxDistinct : Nat) (text : List Byte) : Except Err (List FtEntry × Nat) :=
  countLoop maxDistinct (textSymbols 0 0 text) [] 0

/-- What COUNT computes before it completes (42_frequency_counter.md R510). -/
def countCommand (s : State) : Except Err (List FtEntry × Nat) := do
  checkSrc s
  countText s.cfgMaxDistinct.toNat (sourceBytes s)

/-- COUNT (42_frequency_counter.md R510). -/
def execCount (s : State) : Host.Outcome State Fault Refusal :=
  match countCommand s with
  | .error e => .next (raiseErr (targetsOf .count) e s)
  | .ok (f, total) =>
    .next (complete 0 (resultWord total) { s with ft := some f, nodes := none, ct := none })

end Sys2Proof.Machine
end

