-- ==== Sys2Proof/Machine/Leb.lean ====
section
/-! DEFINITION. LEB128 counts and the bit stream of the artifact (30_encoding.md R325, R326, R333 to R335). -/

namespace Sys2Proof.Machine

/-- At most `groups` 7-bit groups of `c`, low group first, bit 7 set on all but the last (30_encoding.md R325). -/
def lebGroups : (groups c : Nat) → List Byte
  | 0, _ => []
  | g + 1, c => if c < 128 then [BitVec.ofNat 8 c] else BitVec.ofNat 8 (c % 128 + 128) :: lebGroups g (c / 128)

/-- `leb(c)`: a 32-bit count has at most 5 groups (30_encoding.md R325). -/
def leb (c : Word) : List Byte := lebGroups 5 c.toNat

/-- `leblen(c)` (30_encoding.md R325). -/
def leblen (c : Word) : Nat :=
  if c.toNat < 2 ^ 7 then 1 else if c.toNat < 2 ^ 14 then 2 else if c.toNat < 2 ^ 21 then 3
  else if c.toNat < 2 ^ 28 then 4 else 5

/-- A varint at the head of the bytes: its exact value and how many bytes it has, or none if no byte ends it
(30_encoding.md R326). -/
def readVarint : List Byte → Option (Nat × Nat)
  | [] => none
  | b :: bs =>
    if b.toNat < 0x80 then some (b.toNat, 1)
    else
      match readVarint bs with
      | some (v, n) => some (b.toNat % 128 + 128 * v, n + 1)
      | none => none

/-- `BE32(v)` (30_encoding.md R333). -/
def be32 (v : Word) : List Byte :=
  [v.extractLsb' 24 8, v.extractLsb' 16 8, v.extractLsb' 8 8, v.extractLsb' 0 8]

/-- The value of a big-endian byte sequence (46_decoder.md R721). -/
def beValue : List Byte → Nat
  | [] => 0
  | b :: bs => b.toNat * 2 ^ (8 * bs.length) + beValue bs

/-- The bit writer of `pack`: `acc` is the byte being filled, `k` of its bits are set already (45_encoder.md R655). -/
def packFrom (acc : Byte) (k : Nat) : Bits → List Byte
  | [] => if k = 0 then [] else [acc]
  | b :: bits =>
    let acc' := if b then acc ||| (0x80#8 >>> k) else acc
    if k = 7 then acc' :: packFrom 0 0 bits else packFrom acc' (k + 1) bits

/-- A bit sequence packed 8 bits per byte, MSB first, the tail zero-padded (30_encoding.md R334). -/
def packBits (bits : Bits) : List Byte := packFrom 0 0 bits

/-- The 8 bits of a byte, MSB first (30_encoding.md R335). -/
def byteBits (b : Byte) : Bits :=
  [b.getLsbD 7, b.getLsbD 6, b.getLsbD 5, b.getLsbD 4, b.getLsbD 3, b.getLsbD 2, b.getLsbD 1, b.getLsbD 0]

/-- The first `n` stream bits of the packed bytes (30_encoding.md R335). -/
def streamBits (n : Nat) (packed : List Byte) : Bits := (packed.flatMap byteBits).take n

end Sys2Proof.Machine
end

