-- ==== Sys2Proof/Machine/Decoder.lean ====
section
/-! DEFINITION. The Artifact Decoder and the commands PARSEFT and DECODE (46_decoder.md). -/

namespace Sys2Proof.Machine

/-- The sentinel scan: the least offset of a 0x00 byte (46_decoder.md R701). -/
def sentinelAt : List Byte → Option Nat
  | [] => none
  | b :: bs =>
    if b = 0 then some 0
    else
      match sentinelAt bs with
      | some i => some (i + 1)
      | none => none

/-- The sentinel scan or its error, which reports SRC_LEN (46_decoder.md R701). -/
def sentinelScan (art : List Byte) : Except Err Nat :=
  match sentinelAt art with
  | some s => .ok s
  | none => .error (err .malformedArtifact 1 art.length)

/-- One entry at offset `o`, the checks in the order of R704: its symbol, its count and its length in bytes
(46_decoder.md R702, R703). -/
def parseEntry (maxDistinct o : Nat) (f : List FtEntry) (bs : List Byte) : Except Err (Sym × Word × Nat) :=
  match utf8At bs with
  | none => .error (err .malformedArtifact 2 o)
  | some (v, len) =>
    match ftLookup v f with
    | some _ => .error (err .malformedArtifact 3 o)
    | none =>
      if f.length = maxDistinct then .error (err .capacityExceeded 0 o)
      else
        match readVarint (bs.drop len) with
        | none => .error (err .malformedArtifact 4 (o + len))
        | some (c, n) =>
          if c > maxU32 then .error (err .countOverflow 1 (o + len))
          else .ok (v, BitVec.ofNat 32 c, len + n)

/-- `parse_ft` on the bytes of the segment (46_decoder.md R702). `skip` counts the bytes of the current entry still to pass
over. FT is kept in ascending order of symbol (log 13). -/
def parseFt (maxDistinct : Nat) : (skip o : Nat) → (f : List FtEntry) → List Byte → Except Err (List FtEntry)
  | _, _, f, [] => .ok f
  | skip + 1, o, f, _ :: bs => parseFt maxDistinct skip (o + 1) f bs
  | 0, o, f, b :: bs =>
    match parseEntry maxDistinct o f (b :: bs) with
    | .error e => .error e
    | .ok (v, c, n) => parseFt maxDistinct (n - 1) (o + 1) (ftSet v c f) bs

/-- The metadata parser: the offset of the sentinel and the table (46_decoder.md R701, R702). -/
def parseArtifact (maxDistinct : Nat) (art : List Byte) : Except Err (Nat × List FtEntry) := do
  let s ← sentinelScan art
  let f ← parseFt maxDistinct 0 0 [] (art.take s)
  .ok (s, f)

/-- What PARSEFT computes before it completes (46_decoder.md R700). -/
def parseCommand (s : State) : Except Err (Nat × List FtEntry) := do
  checkSrc s
  parseArtifact s.cfgMaxDistinct.toNat (sourceBytes s)

/-- PARSEFT (46_decoder.md R700). -/
def execParseft (s : State) : Host.Outcome State Fault Refusal :=
  match parseCommand s with
  | .error e => .next (raiseErr (targetsOf .parseft) e s)
  | .ok (p, f) =>
    .next (complete (resultWord (p + 1)) (resultWord f.length) { s with ft := some f, nodes := none, ct := none })

/-- The header and the packed bits that follow the sentinel at offset `s`: bitlen and the packed bytes
(46_decoder.md R721, R722). -/
def readHeader (s : Nat) (art : List Byte) : Except Err (Nat × List Byte) :=
  if s + 5 > art.length then .error (err .malformedArtifact 5 (s + 1))
  else
    let bitlen := beValue ((art.drop (s + 1)).take 4)
    if bitlen > 8 * (art.length - s - 5) then .error (err .malformedArtifact 6 (s + 5))
    else .ok (bitlen, art.drop (s + 5))

/-- `emit(v)`: the output with utf8(v) appended, or OUTPUT_OVERFLOW (46_decoder.md R728). -/
def emit (cap : Nat) (v : Sym) (out : List Byte) : Except Err (List Byte) :=
  if out.length + (utf8 v).length > cap then
    .error (err .outputOverflow 0 (min (out.length + (utf8 v).length) maxU32))
  else .ok (out ++ utf8 v)

/-- The walk for n >= 2 over the stream bits from bit `i` on: cursor `x`, start of the current codeword, output and number
of symbols so far (46_decoder.md R724, R726). A cursor on no internal node is a dead end (R727: it cannot happen; log 14). -/
def walkBits (nodes : List Node) (root cap : Nat) :
    Bits → (i x start : Nat) → (out : List Byte) → (nsym : Nat) → Except Err (List Byte × Nat)
  | [], _, x, start, out, nsym => if x ≠ root then .error (err .corruptStream 2 start) else .ok (out, nsym)
  | b :: bits, i, x, start, out, nsym =>
    match nodes[x]? with
    | some (.internal _ l r _) =>
      let y := if b then r else l
      match nodes[y]? with
      | some (.leaf _ v) =>
        match emit cap v out with
        | .error e => .error e
        | .ok out' => walkBits nodes root cap bits (i + 1) root (i + 1) out' (nsym + 1)
      | _ => walkBits nodes root cap bits (i + 1) y start out nsym
    | _ => .error (err .corruptStream 2 start)

/-- `count` repetitions of one symbol (46_decoder.md R725). -/
def emitRepeat (cap : Nat) (v : Sym) : (count : Nat) → (out : List Byte) → Except Err (List Byte)
  | 0, out => .ok out
  | count + 1, out =>
    match emit cap v out with
    | .error e => .error e
    | .ok out' => emitRepeat cap v count out'

/-- The walk over `bitlen` bits of the packed bytes: the output and the number of symbols (46_decoder.md R724, R725). -/
def walkStream (f : List FtEntry) (nodes : List Node) (cap bitlen : Nat) (packed : List Byte) :
    Except Err (List Byte × Nat) :=
  match f with
  | [e] =>
    if bitlen > 0 then .error (err .corruptStream 1 0)
    else
      match emitRepeat cap e.sym e.count.toNat [] with
      | .error x => .error x
      | .ok out => .ok (out, e.count.toNat)
  | _ => walkBits nodes (rootOf nodes) cap (streamBits bitlen packed) 0 (rootOf nodes) 0 [] 0

/-- What a decode that succeeds leaves. -/
structure DecodeResult where
  ft : List FtEntry
  nodes : List Node
  bytes : List Byte
  nsym : Nat
  deriving DecidableEq, Repr

/-- DECODE on the bytes of the artifact, after the range checks (46_decoder.md R720). -/
def decodeArtifact (maxDistinct cap : Nat) (art : List Byte) : Except Err DecodeResult := do
  let (p, f) ← parseArtifact maxDistinct art
  let (bitlen, packed) ← readHeader p art
  let nodes ← buildTree f
  let (out, nsym) ← walkStream f nodes cap bitlen packed
  .ok ⟨f, nodes, out, nsym⟩

/-- What DECODE computes once its range checks have passed (46_decoder.md R720). -/
def decodeCommand (s : State) : Except Err DecodeResult :=
  decodeArtifact s.cfgMaxDistinct.toNat s.dstCap.toNat (sourceBytes s)

/-- DECODE after its range checks. On error every destination byte is unspecified (46_decoder.md R720, R728, R729; 93 U6;
log 11). -/
def decodeChecked (s : State) : Host.Outcome State Fault Refusal :=
  match decodeCommand s with
  | .error e => .next (raiseErr (targetsOf .decode) e (scribbleDest s))
  | .ok r =>
    .next (complete (resultWord r.bytes.length) (resultWord r.nsym)
      (memWrite s.dstAddr.toNat r.bytes { s with ft := some r.ft, nodes := some r.nodes, ct := none }))

/-- DECODE. A range check that fails ends it before any BUF byte is read or written (46_decoder.md R720; 20_memory.md R215;
60_exceptions.md R812; log 11). -/
def execDecode (s : State) : Host.Outcome State Fault Refusal :=
  match checkRegions s with
  | .error e => .next (raiseErr (targetsOf .decode) e s)
  | .ok () => decodeChecked s

end Sys2Proof.Machine
end

