-- ==== Sys2Proof/Machine/Encoder.lean ====
section
/-! DEFINITION. The Artifact Encoder and the command ENCODE (45_encoder.md). -/

namespace Sys2Proof.Machine

/-- `serialise_ft()`: FTSEG, one `utf8(sym) ++ leb(count)` per entry in FT order (45_encoder.md R656; 30_encoding.md R331). -/
def serialiseFt : List FtEntry → List Byte
  | [] => []
  | e :: f => utf8 e.sym ++ leb e.count ++ serialiseFt f

/-- The length of FTSEG by the length rules (30_encoding.md R336). -/
def ftSegLength : List FtEntry → Nat
  | [] => 0
  | e :: f => utf8len e.sym + leblen e.count + ftSegLength f

/-- `bitlen`: the sum of count times code length over the entries (45_encoder.md R653). -/
def bitLength : List FtEntry → List CtEntry → Nat
  | e :: f, c :: ct => e.count.toNat * c.code.length + bitLength f ct
  | _, _ => 0

/-- `size` (45_encoder.md R654; 30_encoding.md R336). -/
def artifactSize (f : List FtEntry) (bitlen : Nat) : Nat := ftSegLength f + 5 + ceilDiv8 bitlen

/-- The code of a symbol. Every symbol of the text has one, since pass 1 counted it (45_encoder.md R655; log 14). -/
def codeOf (v : Sym) : List CtEntry → Bits
  | [] => []
  | e :: ct => if e.sym = v then e.code else codeOf v ct

/-- The codes of the symbols of the text, in text order (45_encoder.md R655). -/
def textBits (ct : List CtEntry) : List (Nat × Option Sym) → Bits
  | [] => []
  | (_, some v) :: rest => codeOf v ct ++ textBits ct rest
  | (_, none) :: _ => []

/-- The artifact: FTSEG, sentinel, header, packed bits (30_encoding.md R330; 45_encoder.md R656). -/
def artifact (f : List FtEntry) (ct : List CtEntry) (bitlen : Nat) (text : List Byte) : List Byte :=
  serialiseFt f ++ [0#8] ++ be32 (BitVec.ofNat 32 bitlen) ++ packBits (textBits ct (textSymbols 0 0 text))

/-- What an encode that succeeds leaves. -/
structure EncodeResult where
  ft : List FtEntry
  nodes : List Node
  ct : List CtEntry
  bytes : List Byte
  size : Nat
  bitlen : Nat
  deriving DecidableEq, Repr

/-- ENCODE on the bytes of the text, after the range checks (45_encoder.md R650). -/
def encodeText (maxDistinct cap : Nat) (text : List Byte) : Except Err EncodeResult := do
  let (f, _) ← countText maxDistinct text
  let nodes ← buildTree f
  let ct := genCodes nodes
  let bitlen := bitLength f ct
  if bitlen > maxU32 then .error (err .countOverflow 3 0)
  else
    let size := artifactSize f bitlen
    if size > cap then .error (err .outputOverflow 0 size)
    else .ok ⟨f, nodes, ct, artifact f ct bitlen text, size, bitlen⟩

/-- What ENCODE computes before it writes (45_encoder.md R650). -/
def encodeCommand (s : State) : Except Err EncodeResult := do
  checkRegions s
  encodeText s.cfgMaxDistinct.toNat s.dstCap.toNat (sourceBytes s)

/-- ENCODE: all-or-nothing in BUF (45_encoder.md R650, R657, R659). -/
def execEncode (s : State) : Host.Outcome State Fault Refusal :=
  match encodeCommand s with
  | .error e => .next (raiseErr (targetsOf .encode) e s)
  | .ok r =>
    .next (complete (resultWord r.size) (resultWord r.bitlen)
      (memWrite s.dstAddr.toNat r.bytes { s with ft := some r.ft, nodes := some r.nodes, ct := some r.ct }))

end Sys2Proof.Machine
end

