-- ==== Sys2Proof/Machine/Step.lean ====
section
/-! DEFINITION. One step of the block: one host operation, or the core's run of the command in progress from acceptance to
completion (10_state.md R100, R141; log 5). -/

namespace Sys2Proof.Machine

/-- The core's step: the legality check, then the command (60_exceptions.md R806). -/
def coreStep (s : State) : Host.Outcome State Fault Refusal :=
  match decodeWord s.curOp with
  | .ok i => exec i s
  | .error e => .next (illegalCommand e s)

/-- One step. A block that is IDLE with nothing asked of it stays as it is (60_exceptions.md R846; log 16). -/
def step (s : State) : Host.Outcome State Fault Refusal :=
  match nextAgent s with
  | .host => hostStep (useSchedule s)
  | .core => coreStep (useSchedule s)

/-- `s` with the command word of the first `nbits` bits of `w` accepted, so that the very next step runs it (log 6). -/
def State.withFetchWord (s : State) (nbits w : Nat) : State := placeCommand (tableWord nbits w) s

end Sys2Proof.Machine
end

