-- ==== Sys2Proof/Machine/TwoQueue.lean ====
section
/-! DEFINITION. The sorter-plus-FIFO form of the tree builder (43_tree_builder.md R570). No command runs it: the spec says it
yields exactly the NODE of build_tree, and an obligation states so. -/

namespace Sys2Proof.Machine

/-- Insert a pool member into a list sorted by ascending key. -/
def insertByKey (x : Node × Nat) : List (Node × Nat) → List (Node × Nat)
  | [] => [x]
  | y :: ys => if keyLt x.1.key y.1.key then x :: y :: ys else y :: insertByKey x ys

/-- The sorter: the leaves by ascending key. -/
def sortByKey : List (Node × Nat) → List (Node × Nat)
  | [] => []
  | x :: xs => insertByKey x (sortByKey xs)

/-- Take the head of L if L is non-empty and either I is empty or head(L).weight <= head(I).weight; otherwise take the head
of I (43_tree_builder.md R570). -/
def takeHead : (leaves fifo : List (Node × Nat)) → Option ((Node × Nat) × List (Node × Nat) × List (Node × Nat))
  | [], [] => none
  | l :: ls, [] => some (l, ls, [])
  | [], i :: is => some (i, [], is)
  | l :: ls, i :: is =>
    if l.1.weight.toNat ≤ i.1.weight.toNat then some (l, ls, i :: is) else some (i, l :: ls, is)

/-- The merges over the two queues. -/
def twoQueueLoop : (merges k : Nat) → (nodes : List Node) → (leaves fifo : List (Node × Nat)) → List Node
  | 0, _, nodes, _, _ => nodes
  | m + 1, k, nodes, ls, is =>
    match takeHead ls is with
    | none => nodes
    | some (a, ls1, is1) =>
      match takeHead ls1 is1 with
      | none => nodes
      | some (b, ls2, is2) =>
        twoQueueLoop m (k + 1) (nodes ++ [mergeNode a b k]) ls2 (is2 ++ [(mergeNode a b k, nodes.length)])

/-- The two-queue tree builder (43_tree_builder.md R570). -/
def twoQueueTree (f : List FtEntry) : Except Err (List Node) :=
  if f.isEmpty then .error (err .emptyInput 0 0)
  else .ok (twoQueueLoop (f.length - 1) 0 (leavesOf f) (sortByKey (leavesOf f).zipIdx) [])

end Sys2Proof.Machine
end

