-- ==== Sys2Proof/Safety.lean ====
section
/-! DEFINITION. What counts as a safe state, and the terms the statements use: invariants of the state, and what it means for a
table to be the tally of a text, for a bit string to be a path of the tree, and for a node to be a child. -/

namespace Sys2Proof.Machine

/-! ### Tables -/

/-- FT entries in strictly ascending order of symbol (10_state.md R131). -/
def ftRises : List FtEntry → Bool
  | [] => true
  | [_] => true
  | a :: b :: f => a.sym.toNat < b.sym.toNat && ftRises (b :: f)

/-- An entry of R130: a scalar value other than U+0000 with a count of at least 1. -/
def entryOk (e : FtEntry) : Bool := symOk e.sym && e.count != 0

/-- A frequency table as R130 and R131 describe it (10_state.md). -/
def ftWf (maxDistinct : Nat) (f : List FtEntry) : Bool :=
  ftRises f && f.all entryOk && f.length ≤ maxDistinct

/-- FT, when valid, is a frequency table of R130 and R131. -/
def FtInv (s : State) : Prop := ∀ f, s.ft = some f → ftWf s.cfgMaxDistinct.toNat f = true

/-- The implications of the valid flags (10_state.md R137): NODE is the tree of FT, and CT the codes of NODE. -/
def TablesInv (s : State) : Prop :=
  (∀ ns, s.nodes = some ns → ∃ f, s.ft = some f ∧ buildTree f = .ok ns)
    ∧ (∀ c, s.ct = some c → ∃ ns, s.nodes = some ns ∧ c = genCodes ns)

/-! ### Memory -/

/-- BUF is in its canonical form and lists no address outside BUF (10_state.md R145; log 2). -/
def MemInv (s : State) : Prop := Memory.wf s.buf = true ∧ Memory.below s.cfgBufSize.toNat s.buf = true

/-! ### Reports -/

/-- The error report is one the block can hold: ERR_CODE is at most 10 (10_state.md R117), a success has no sub-cause and no
info (60_exceptions.md R801), a failure has no results (10_state.md R122). -/
def ReportInv (s : State) : Prop :=
  s.errCode.toNat ≤ 10
    ∧ (s.errCode = 0 → s.errSub = 0 ∧ s.errInfo = 0)
    ∧ (s.errCode ≠ 0 → s.resultLen = 0 ∧ s.resultAux = 0)

/-- While a command is in progress no completion is pending and the report is clear (40_host_interface.md R406;
60_exceptions.md R832). -/
def BusyInv (s : State) : Prop :=
  s.phase = .busy → s.done = false ∧ s.errCode = 0 ∧ s.resultLen = 0 ∧ s.resultAux = 0

/-- A safe state: every invariant of the block holds. -/
def Safe (s : State) : Prop := MemInv s ∧ FtInv s ∧ TablesInv s ∧ ReportInv s ∧ BusyInv s

/-! ### Terms of the statements -/

/-- The text with these symbols, in UTF-8 (30_encoding.md R322). -/
def textOf (syms : List Sym) : List Byte := syms.flatMap utf8

/-- `f` is the frequency table of the symbols: ascending, one entry per symbol that occurs, with the number of its
occurrences (42_frequency_counter.md R500, R505). -/
def Tally (f : List FtEntry) (syms : List Sym) : Prop :=
  ftRises f = true ∧ ∀ v c, (⟨v, c⟩ : FtEntry) ∈ f ↔ v ∈ syms ∧ c.toNat = syms.count v

/-- The node a bit string leads to from node `x`: left on 0, right on 1 (44_code_table.md R601). -/
def followBits (nodes : List Node) : (x : Nat) → Bits → Option Nat
  | x, [] => some x
  | x, b :: bits =>
    match nodes[x]? with
    | some (.internal _ l r _) => followBits nodes (if b then r else l) bits
    | _ => none

/-- The children of a node, left first (10_state.md R132). -/
def childrenOf : Node → List Nat
  | .leaf _ _ => []
  | .internal _ l r _ => [l, r]

/-- The source region lies in BUF (60_exceptions.md R812). -/
def SrcOk (s : State) : Prop := s.srcAddr.toNat + s.srcLen.toNat ≤ s.cfgBufSize.toNat

/-- The destination region lies in BUF (60_exceptions.md R812). -/
def DstOk (s : State) : Prop := s.dstAddr.toNat + s.dstCap.toNat ≤ s.cfgBufSize.toNat

/-- The two regions share no byte, or one of them is empty (60_exceptions.md R812). -/
def RegionsApart (s : State) : Prop :=
  s.srcLen.toNat = 0 ∨ s.dstCap.toNat = 0
    ∨ s.dstAddr.toNat + s.dstCap.toNat ≤ s.srcAddr.toNat ∨ s.srcAddr.toNat + s.srcLen.toNat ≤ s.dstAddr.toNat

/-- The range checks a command runs all pass (60_exceptions.md R812). -/
def RangeOk (i : Instr) (s : State) : Prop :=
  match i with
  | .nop => True
  | .clear => True
  | .count => SrcOk s
  | .parseft => SrcOk s
  | .build => True
  | .gencode => True
  | .encode => SrcOk s ∧ DstOk s ∧ RegionsApart s
  | .decode => SrcOk s ∧ DstOk s ∧ RegionsApart s

/-- The five words a host reads through the table window (10_state.md R125). -/
def windowReads (s : State) : List Word :=
  [csrReadValue s .word 0x54#8, csrReadValue s .word 0x58#8, csrReadValue s .word 0x5C#8,
   csrReadValue s .word 0x60#8, csrReadValue s .word 0x64#8]

/-- The code bits of the symbols, one code after the other (45_encoder.md R655). -/
def codesOf (ct : List CtEntry) (syms : List Sym) : Bits := syms.flatMap (fun v => codeOf v ct)

/-- What an error completion of a command leaves, its tables apart (60_exceptions.md R820). -/
def Failed (t : State) (code sub info : Word) : Prop :=
  t.errCode = code ∧ t.errSub = sub ∧ t.errInfo = info ∧ t.resultLen = 0 ∧ t.resultAux = 0
    ∧ t.phase = .idle ∧ t.done = true

end Sys2Proof.Machine
end

