-- ==== Sys2Proof/Certificates/Slice0/Obligations.lean ====
section
/-! DEFINITION. The statements for the provers, from the spec's numbered rules. Each is about every state, or every state that meets
the hypotheses written in it; none rests on a free value or on a parameter's value. Where a statement gives a whole next
state, it says as well that the model's own fields (logs 2, 3, 6, 7) and CUR_OP (log 4), which no rule of the spec speaks of,
keep their values; that part is the model's choice. -/

open Sys2Proof Sys2Proof.Machine

/-! ### Command words and the step -/

/-- The words of the opcode map decode to their commands, and words with reserved bits or a reserved opcode to neither
(30_encoding.md R303, R304; vectors V-CMD-1 to V-CMD-13). -/
def Obligations.CommandWordsDecode : Prop :=
  decodeWord 0x00000000#32 = .ok .nop ∧ decodeWord 0x00000001#32 = .ok .clear
    ∧ decodeWord 0x00000002#32 = .ok .count ∧ decodeWord 0x00000003#32 = .ok .parseft
    ∧ decodeWord 0x00000004#32 = .ok .build ∧ decodeWord 0x00000005#32 = .ok .gencode
    ∧ decodeWord 0x00000006#32 = .ok .encode ∧ decodeWord 0x00000007#32 = .ok .decode
    ∧ decodeWord 0x00000008#32 = .error .reservedOpcode ∧ decodeWord 0x0000000F#32 = .error .reservedOpcode
    ∧ decodeWord 0x00000010#32 = .error .reservedBits ∧ decodeWord 0x80000006#32 = .error .reservedBits
    ∧ decodeWord 0xFFFFFFFF#32 = .error .reservedBits

/-- Decoder and encoder agree on every word: a word decodes to a command iff it is that command's word
(30_encoding.md R300 to R304). -/
def Obligations.DecodeIffEncode : Prop :=
  ∀ (w : Word) (i : Instr), decodeWord w = .ok i ↔ w = encodeWord i

/-- The legality check (60_exceptions.md R806; 30_encoding.md R302, R304): an illegal word completes with ILLEGAL_COMMAND,
sub-cause 1 for reserved bits whatever the opcode, 2 for a reserved opcode, the word in ERR_INFO, and nothing else changed;
any other word runs its command. -/
def Obligations.IllegalWordCompletes : Prop :=
  ∀ s : State,
    (fieldRsv s.curOp ≠ 0 →
      coreStep s = .next { s with errCode := 6, errSub := 1, errInfo := s.curOp, resultLen := 0, resultAux := 0,
                                  phase := .idle, done := true })
    ∧ (fieldRsv s.curOp = 0 → 8 ≤ (fieldOp s.curOp).toNat →
      coreStep s = .next { s with errCode := 6, errSub := 2, errInfo := s.curOp, resultLen := 0, resultAux := 0,
                                  phase := .idle, done := true })
    ∧ (fieldRsv s.curOp = 0 → (fieldOp s.curOp).toNat < 8 →
      ∃ i, s.curOp = encodeWord i ∧ coreStep s = exec i s)

/-- A step runs the command word in progress when the core moves, legal or not, and exec of its command where it decodes to
one; the host's next operation when the host moves, and nothing on an idle block with no operation pending (log 16). While BUSY a step uses up one entry of the model's schedule (log 7). A command placed with
withFetchWord is what the very next step runs (log 6), from the state its acceptance leaves. -/
def Obligations.StepRunsDecodedCommand : Prop :=
  (∀ s : State, nextAgent s = .core → step s = coreStep { s with schedule := s.schedule.tail })
  ∧ (∀ (s : State) (i : Instr), nextAgent s = .core → decodeWord s.curOp = .ok i →
      step s = exec i { s with schedule := s.schedule.tail })
  ∧ (∀ (s : State) (op : HostOp) (rest : List HostOp), nextAgent s = .host → s.hostOps = op :: rest →
      step s = hostAct op { s with hostOps := rest,
                                   schedule := if s.phase = .busy then s.schedule.tail else s.schedule })
  ∧ (∀ s : State, s.phase = .idle → s.hostOps = [] → step s = .next s)
  ∧ (∀ (s : State) (i : Instr), step (s.withFetchWord 32 (encodeWord i).toNat) = exec i (accept (encodeWord i) s))

/-! ### The host's CSR accesses -/

/-- What accepting a CMD write does (40_host_interface.md R406): PHASE, CUR_OP, DONE, the error report and the results, and
nothing else, so DROPPED keeps its value. -/
def Obligations.CmdWriteAccepts : Prop :=
  ∀ (s : State) (w : Word), s.phase = .idle →
    hostAct (.csrWrite .word 0x14#8 w) s
      = .next { s with phase := .busy, curOp := w, done := false, errCode := 0, errSub := 0, errInfo := 0,
                       resultLen := 0, resultAux := 0 }

/-- A write to CMD or an operand CSR while BUSY sets DROPPED and changes nothing else (40_host_interface.md R405). -/
def Obligations.BusyWritesDropped : Prop :=
  ∀ (s : State) (off : BitVec 8) (v : Word), s.phase = .busy → off ∈ [0x14#8, 0x28#8, 0x2C#8, 0x30#8, 0x34#8] →
    csrWrite .word off v s = { s with dropped := true }

/-- The writes that take effect: the operand CSRs while IDLE, and CTRL, TBL_SEL and TBL_IDX in both phases
(40_host_interface.md R402, R404). -/
def Obligations.WritesTakeEffect : Prop :=
  ∀ (s : State) (v : Word),
    (s.phase = .idle →
      csrWrite .word 0x28#8 v s = { s with srcAddr := v } ∧ csrWrite .word 0x2C#8 v s = { s with srcLen := v }
        ∧ csrWrite .word 0x30#8 v s = { s with dstAddr := v } ∧ csrWrite .word 0x34#8 v s = { s with dstCap := v })
    ∧ csrWrite .word 0x10#8 v s = { s with irqEn := v.getLsbD 0 }
    ∧ csrWrite .word 0x4C#8 v s = { s with tblSel := v.extractLsb' 0 2 }
    ∧ csrWrite .word 0x50#8 v s = { s with tblIdx := v }

/-- `W1C(v)` (40_host_interface.md R407): bit 1 clears DONE, bit 6 clears DROPPED, every other bit is ignored, and clearing
DONE clears irq. -/
def Obligations.StatusWriteClears : Prop :=
  ∀ (s : State) (v : Word),
    csrWrite .word 0x18#8 v s = { s with done := s.done && !v.getLsbD 1, dropped := s.dropped && !v.getLsbD 6 }
    ∧ (v.getLsbD 1 = true → irq (csrWrite .word 0x18#8 v s) = false)

/-- Writes to read-only registers and to RAZ/WI fields and offsets have no effect, nor has writing 0 to a W1C bit
(40_host_interface.md R403). -/
def Obligations.ReadOnlyWritesIgnored : Prop :=
  ∀ (s : State) (v : Word),
    (∀ off ∈ [0x00#8, 0x04#8, 0x08#8, 0x0C#8, 0x1C#8, 0x20#8, 0x24#8, 0x38#8, 0x3C#8, 0x40#8, 0x44#8, 0x48#8,
              0x54#8, 0x58#8, 0x5C#8, 0x60#8, 0x64#8], csrWrite .word off v s = s)
    ∧ (∀ off : BitVec 8, 0x68 ≤ off.toNat → csrWrite .word off v s = s)
    ∧ csrWrite .word 0x10#8 v s = csrWrite .word 0x10#8 (v &&& 0x00000001#32) s
    ∧ csrWrite .word 0x4C#8 v s = csrWrite .word 0x4C#8 (v &&& 0x00000003#32) s
    ∧ csrWrite .word 0x18#8 v s = csrWrite .word 0x18#8 (v &&& 0x00000042#32) s
    ∧ csrWrite .word 0x18#8 0x00000000#32 s = s

/-- A CSR access that is not a 32-bit access at a multiple of 4, be it narrower, wider or misaligned, is ignored if it is a
write; if it is a read, it returns an unspecified value, one free word of the model for each word of the access (log 3), and
no other state of the block changes (20_memory.md R207). -/
def Obligations.MisalignedCsrAccess : Prop :=
  ∀ (s : State) (width : AccessWidth) (off : BitVec 8) (v : Word), width ≠ .word ∨ off.toNat % 4 ≠ 0 →
    hostAct (.csrWrite width off v) s = .next s
    ∧ hostAct (.csrRead width off) s
        = .next { s with draws := s.draws + width.words,
                         hostReads := s.hostReads
                           ++ (List.range width.words).map (fun k => Config.freeWord (s.draws + k)) }

/-- An aligned 32-bit CSR read hands the host the register's value and changes no other state of the block
(40_host_interface.md R401), but for the model's count of free values, which a read of R142 advances while BUSY (log 3);
and `wait` is that read of STATUS, the next operation again while DONE reads 0 (30_encoding.md R310; log 6). -/
def Obligations.AlignedReadsHandValues : Prop :=
  ∀ s : State,
    (∀ off : BitVec 8, off.toNat % 4 = 0 →
      hostAct (.csrRead .word off) s
        = .next { s with draws := if s.phase = .busy ∧ off ∈ [0x18#8, 0x40#8, 0x44#8, 0x48#8, 0x54#8, 0x58#8, 0x5C#8,
                                                              0x60#8, 0x64#8] then s.draws + 1 else s.draws,
                         hostReads := s.hostReads ++ [csrReadValue s .word off] })
    ∧ (s.done = true → hostAct .wait s = hostAct (.csrRead .word 0x18#8) s)
    ∧ (s.done = false → ∃ t, hostAct (.csrRead .word 0x18#8) s = .next t
        ∧ hostAct .wait s = .next { t with hostOps := .wait :: s.hostOps })

/-- ID, VERSION, CFG_MAX_DISTINCT and CFG_BUF_SIZE read their constants in both phases, ignore every write, and no step, a
reset included, changes them (10_state.md R112, R113). -/
def Obligations.HardwiredRegisters : Prop :=
  ∀ s : State,
    csrReadValue s .word 0x00#8 = 0x48554646#32 ∧ csrReadValue s .word 0x04#8 = 0x00000001#32
    ∧ csrReadValue s .word 0x08#8 = s.cfgMaxDistinct ∧ csrReadValue s .word 0x0C#8 = s.cfgBufSize
    ∧ (∀ v, ∀ off ∈ [0x00#8, 0x04#8, 0x08#8, 0x0C#8], csrWrite .word off v s = s)
    ∧ (∀ t, step s = .next t → t.cfgMaxDistinct = s.cfgMaxDistinct ∧ t.cfgBufSize = s.cfgBufSize)

/-- What the host reads of the registers (10_state.md R103, R110 to R124). In both phases: BUSY, DONE, ERR and DROPPED of
STATUS, whose reserved bits read 0; CTRL; CMD, which reads 0; the error report; the operand CSRs; the results; TBL_SEL and
TBL_IDX; and 0 at every offset that is not listed. While IDLE: the valid flags of STATUS. -/
def Obligations.StatusReadsFields : Prop :=
  ∀ s : State,
    (csrReadValue s .word 0x18#8).getLsbD 0 = (s.phase == .busy)
    ∧ (csrReadValue s .word 0x18#8).getLsbD 1 = s.done
    ∧ (csrReadValue s .word 0x18#8).getLsbD 2 = (s.errCode != 0)
    ∧ (csrReadValue s .word 0x18#8).getLsbD 6 = s.dropped
    ∧ (∀ i, 7 ≤ i → (csrReadValue s .word 0x18#8).getLsbD i = false)
    ∧ (s.phase = .idle →
        (csrReadValue s .word 0x18#8).getLsbD 3 = s.ft.isSome
        ∧ (csrReadValue s .word 0x18#8).getLsbD 4 = s.nodes.isSome
        ∧ (csrReadValue s .word 0x18#8).getLsbD 5 = s.ct.isSome)
    ∧ csrReadValue s .word 0x10#8 = (if s.irqEn then 0x00000001#32 else 0)
    ∧ csrReadValue s .word 0x14#8 = 0
    ∧ csrReadValue s .word 0x1C#8 = s.errCode ∧ csrReadValue s .word 0x20#8 = s.errSub
    ∧ csrReadValue s .word 0x24#8 = s.errInfo
    ∧ csrReadValue s .word 0x28#8 = s.srcAddr ∧ csrReadValue s .word 0x2C#8 = s.srcLen
    ∧ csrReadValue s .word 0x30#8 = s.dstAddr ∧ csrReadValue s .word 0x34#8 = s.dstCap
    ∧ csrReadValue s .word 0x38#8 = s.resultLen ∧ csrReadValue s .word 0x3C#8 = s.resultAux
    ∧ csrReadValue s .word 0x4C#8 = s.tblSel.setWidth 32 ∧ csrReadValue s .word 0x50#8 = s.tblIdx
    ∧ (∀ off : BitVec 8, off.toNat % 4 = 0 → 0x68 ≤ off.toNat → csrReadValue s .word off = 0)

/-- FT_COUNT, NODE_COUNT and ROOT_IDX (10_state.md R123): their values while IDLE by the valid flags and n, an unspecified
value (a free value of the model: log 3) while BUSY, and read-only. -/
def Obligations.CountRegistersRead : Prop :=
  ∀ s : State,
    (s.phase = .idle →
      (s.ft = none → csrReadValue s .word 0x40#8 = 0)
      ∧ (∀ f, s.ft = some f → csrReadValue s .word 0x40#8 = BitVec.ofNat 32 f.length)
      ∧ (s.nodes = none → csrReadValue s .word 0x44#8 = 0 ∧ csrReadValue s .word 0x48#8 = 0)
      ∧ (∀ f ns, s.ft = some f → s.nodes = some ns →
          csrReadValue s .word 0x44#8 = BitVec.ofNat 32 (2 * f.length - 1)
          ∧ (2 ≤ f.length → csrReadValue s .word 0x48#8 = BitVec.ofNat 32 (2 * f.length - 2))
          ∧ (f.length = 1 → csrReadValue s .word 0x48#8 = 0)))
    ∧ (s.phase = .busy → ∀ off ∈ [0x40#8, 0x44#8, 0x48#8], csrReadValue s .word off = Config.freeWord s.draws)
    ∧ (∀ v, ∀ off ∈ [0x40#8, 0x44#8, 0x48#8], csrWrite .word off v s = s)

/-- The table window while IDLE (40_host_interface.md R420, R421, R422): zero for SEL = 3, an invalid table or an index out
of range; the FT view; the NODE view of leaves and of internal nodes. -/
def Obligations.WindowShowsTables : Prop :=
  ∀ s : State, s.phase = .idle →
    (s.tblSel = 3 → windowReads s = [0, 0, 0, 0, 0])
    ∧ (s.tblSel = 0 → s.ft = none ∨ ftCount s ≤ s.tblIdx.toNat → windowReads s = [0, 0, 0, 0, 0])
    ∧ (s.tblSel = 1 → s.nodes = none ∨ 2 * ftCount s - 1 ≤ s.tblIdx.toNat → windowReads s = [0, 0, 0, 0, 0])
    ∧ (s.tblSel = 2 → s.ct = none ∨ ftCount s ≤ s.tblIdx.toNat → windowReads s = [0, 0, 0, 0, 0])
    ∧ (∀ f e, s.tblSel = 0 → s.ft = some f → f[s.tblIdx.toNat]? = some e →
        windowReads s = [e.sym.setWidth 32, e.count, 0, 0, 0])
    ∧ (∀ f ns w v, s.tblSel = 1 → s.ft = some f → s.nodes = some ns → s.tblIdx.toNat < 2 * f.length - 1 →
        ns[s.tblIdx.toNat]? = some (.leaf w v) →
        windowReads s = [w.extractLsb' 0 32, w.extractLsb' 32 32, (1#32 <<< 31) ||| v.setWidth 32,
                         0xFFFFFFFF#32, 0xFFFFFFFF#32])
    ∧ (∀ f ns w l r q, s.tblSel = 1 → s.ft = some f → s.nodes = some ns → s.tblIdx.toNat < 2 * f.length - 1 →
        ns[s.tblIdx.toNat]? = some (.internal w l r q) →
        windowReads s = [w.extractLsb' 0 32, w.extractLsb' 32 32, 0, BitVec.ofNat 32 l, BitVec.ofNat 32 r])

/-- The CT view while IDLE (40_host_interface.md R423): symbol, code length, and code bit j in bit 31 - (j mod 32) of
TBL_D(2 + j div 32), every other bit of TBL_D2 to TBL_D4 being 0. -/
def Obligations.WindowShowsCode : Prop :=
  ∀ (s : State) (f : List FtEntry) (cs : List CtEntry) (e : CtEntry),
    s.phase = .idle → s.tblSel = 2 → s.ft = some f → s.ct = some cs → s.tblIdx.toNat < f.length →
    cs[s.tblIdx.toNat]? = some e →
    (windowReads s)[0]? = some (e.sym.setWidth 32)
    ∧ (windowReads s)[1]? = some (BitVec.ofNat 32 e.code.length)
    ∧ ∀ j < 96, ((windowReads s)[2 + j / 32]?).map (fun w => w.getLsbD (31 - j % 32)) = some (e.code.getD j false)

/-- The interrupt output (60_exceptions.md R830, R831): irq is IRQ_EN and DONE, so a completion raises it when enabled, and
a W1C of DONE, an acceptance, writing IRQ_EN to 0 and a reset lower it; writing IRQ_EN to 1 with DONE = 1 raises it. No
host operation sets DONE, so completion is the only source. The host sees the level when it samples irq, and its wait for
irq ends when irq is 1 (40_host_interface.md R400, R430): the operations irqRead and waitIrq that say so are the model's choice
(log 6). -/
def Obligations.IrqFollowsDone : Prop :=
  ∀ s : State,
    irq s = (s.irqEn && s.done)
    ∧ (∀ v : Word, v.getLsbD 1 = true → irq (csrWrite .word 0x18#8 v s) = false)
    ∧ (∀ w : Word, s.phase = .idle → irq (csrWrite .word 0x14#8 w s) = false)
    ∧ (∀ v : Word, irq (csrWrite .word 0x10#8 v s) = (v.getLsbD 0 && s.done))
    ∧ irq (hwReset s) = false
    ∧ (∀ t, nextAgent s = .core → step s = .next t → irq t = s.irqEn)
    ∧ (∀ op t, hostAct op s = .next t → t.done = true → s.done = true)
    ∧ hostAct .irqRead s = .next { s with hostReads := s.hostReads ++ [if irq s then 0x00000001#32 else 0] }
    ∧ (irq s = true → hostAct .waitIrq s = .next s)
    ∧ (irq s = false → hostAct .waitIrq s = .next { s with hostOps := .waitIrq :: s.hostOps })

/-- Hardware reset (10_state.md R150; 70_reset_and_hazards.md R900 to R902), in either phase: PHASE IDLE, every CSR at its
reset value, every table invalid, irq 0; BUF keeps every byte but those of the destination region of a command it ends. The
clauses rest on no value the model chose. -/
def Obligations.ResetPutsValues : Prop :=
  ∀ s : State, ∃ t, hostAct .reset s = .next t
    ∧ t.phase = .idle ∧ t.irqEn = false ∧ t.done = false ∧ t.dropped = false
    ∧ t.errCode = 0 ∧ t.errSub = 0 ∧ t.errInfo = 0
    ∧ t.srcAddr = 0 ∧ t.srcLen = 0 ∧ t.dstAddr = 0 ∧ t.dstCap = 0
    ∧ t.resultLen = 0 ∧ t.resultAux = 0 ∧ t.tblSel = 0 ∧ t.tblIdx = 0
    ∧ t.ft = none ∧ t.nodes = none ∧ t.ct = none
    ∧ t.cfgMaxDistinct = s.cfgMaxDistinct ∧ t.cfgBufSize = s.cfgBufSize
    ∧ csrReadValue t .word 0x18#8 = 0 ∧ windowReads t = [0, 0, 0, 0, 0] ∧ irq t = false
    ∧ (∀ a, ¬ (runningWritesDest s = true ∧ inDest s a = true) → readByte t a = readByte s a)

/-! ### The host's BUF accesses -/

/-- BUF byte accesses (40_host_interface.md R410, R411; 20_memory.md R223, R224): inside BUF, and breaking no duty of a
running command, a read returns BUF[a] and a write sets BUF[a] to v[7:0] and leaves every other byte and all other state;
at or above BUF_SIZE both are refused. That a value read is handed to the host through the list hostReads (log 6), and that the
refusal comes before any check of a duty (log 9), are the model's choice. -/
def Obligations.BufByteAccess : Prop :=
  ∀ (s : State) (a v : Word),
    (a.toNat < s.cfgBufSize.toNat → readBreaksDuty s a.toNat = false →
      hostAct (.bufRead a) s
        = .next { s with hostReads := s.hostReads ++ [(readByte s a.toNat).setWidth 32] })
    ∧ (a.toNat < s.cfgBufSize.toNat → writeBreaksDuty s a.toNat = false →
        ∃ t, hostAct (.bufWrite a v) s = .next t ∧ readByte t a.toNat = v.extractLsb' 0 8
          ∧ (∀ b, b ≠ a.toNat → readByte t b = readByte s b) ∧ { t with buf := s.buf } = s)
    ∧ (s.cfgBufSize.toNat ≤ a.toNat →
        hostAct (.bufRead a) s = .refused .outsideBuf ∧ hostAct (.bufWrite a v) s = .refused .outsideBuf)

/-- Host duties while a command runs (20_memory.md R223, R224; 93 U4): a BUF access of the host inside BUF is refused iff
PHASE is BUSY and it writes into the source region of a COUNT, PARSEFT, ENCODE or DECODE, or touches the destination region
of an ENCODE or DECODE. Refusing it is what 93_implementation_defined.md U4 says a model does (log 8). -/
def Obligations.HostDutiesWhileBusy : Prop :=
  ∀ (s : State) (a v : Word), a.toNat < s.cfgBufSize.toNat →
    (hostAct (.bufRead a) s = .refused .hostDuty ↔
      s.phase = .busy ∧ (∃ i ∈ [Instr.encode, .decode], s.curOp = encodeWord i)
        ∧ s.dstAddr.toNat ≤ a.toNat ∧ a.toNat < s.dstAddr.toNat + s.dstCap.toNat)
    ∧ (hostAct (.bufWrite a v) s = .refused .hostDuty ↔
      s.phase = .busy
        ∧ (((∃ i ∈ [Instr.count, .parseft, .encode, .decode], s.curOp = encodeWord i)
              ∧ s.srcAddr.toNat ≤ a.toNat ∧ a.toNat < s.srcAddr.toNat + s.srcLen.toNat)
            ∨ ((∃ i ∈ [Instr.encode, .decode], s.curOp = encodeWord i)
              ∧ s.dstAddr.toNat ≤ a.toNat ∧ a.toNat < s.dstAddr.toNat + s.dstCap.toNat)))

/-- Host operations leave the core's side alone (40_host_interface.md R404, R405; 20_memory.md R228;
30_encoding.md R306): but for a reset, no host step changes a table, and while BUSY none changes PHASE, the command in
progress or an operand CSR. -/
def Obligations.HostStepsLeaveCommandAlone : Prop :=
  ∀ (s t : State), nextAgent s = .host → step s = .next t → (∀ rest, s.hostOps ≠ .reset :: rest) →
    t.ft = s.ft ∧ t.nodes = s.nodes ∧ t.ct = s.ct
    ∧ (s.phase = .busy →
        t.phase = .busy ∧ t.curOp = s.curOp ∧ t.srcAddr = s.srcAddr ∧ t.srcLen = s.srcLen
        ∧ t.dstAddr = s.dstAddr ∧ t.dstCap = s.dstCap)

/-! ### Completion, frames and errors -/

/-- NOP (41_control_commands.md R450): it completes with results 0 and changes nothing else. -/
def Obligations.NopCompletes : Prop :=
  ∀ s : State, exec .nop s = .next { s with resultLen := 0, resultAux := 0, phase := .idle, done := true }

/-- CLEAR (41_control_commands.md R451): it releases the three tables, completes with results 0, and changes nothing else. -/
def Obligations.ClearReleasesTables : Prop :=
  ∀ s : State,
    exec .clear s = .next { s with ft := none, nodes := none, ct := none, resultLen := 0, resultAux := 0,
                                   phase := .idle, done := true }

/-- Every command completes in every state (70_reset_and_hazards.md R931; 60_exceptions.md R820, R821), with PHASE IDLE and
DONE set; and the frame of every command: the operand CSRs, CTRL, DROPPED, CUR_OP (the model's choice: log 4), the window
selectors, the hardwired registers and the host's side (logs 6, 7) keep their values. -/
def Obligations.EveryCommandCompletes : Prop :=
  ∀ (i : Instr) (s : State), ∃ t, exec i s = .next t
    ∧ t.phase = .idle ∧ t.done = true
    ∧ t.srcAddr = s.srcAddr ∧ t.srcLen = s.srcLen ∧ t.dstAddr = s.dstAddr ∧ t.dstCap = s.dstCap
    ∧ t.irqEn = s.irqEn ∧ t.dropped = s.dropped ∧ t.curOp = s.curOp ∧ t.tblSel = s.tblSel ∧ t.tblIdx = s.tblIdx
    ∧ t.cfgMaxDistinct = s.cfgMaxDistinct ∧ t.cfgBufSize = s.cfgBufSize ∧ t.powerOn = s.powerOn
    ∧ t.hostOps = s.hostOps ∧ t.hostReads = s.hostReads ∧ t.schedule = s.schedule

/-- The target tables (60_exceptions.md R823): NOP and CLEAR cannot fail, an illegal word keeps all tables, and a command
that fails loses exactly the tables it would have written. (ERR_CODE is 0 when a command begins: R406.) -/
def Obligations.FailureInvalidatesTargets : Prop :=
  ∀ (s t : State), s.errCode = 0 → t.errCode ≠ 0 →
    (exec .nop s ≠ .next t ∧ exec .clear s ≠ .next t)
    ∧ (∀ e, decodeWord s.curOp = .error e → coreStep s = .next t → t.ft = s.ft ∧ t.nodes = s.nodes ∧ t.ct = s.ct)
    ∧ (∀ i ∈ [Instr.count, .parseft, .encode, .decode], exec i s = .next t →
        t.ft = none ∧ t.nodes = none ∧ t.ct = none)
    ∧ (exec .build s = .next t → t.nodes = none ∧ t.ct = none ∧ t.ft = s.ft)
    ∧ (exec .gencode s = .next t → t.ct = none ∧ t.ft = s.ft ∧ t.nodes = s.nodes)

/-- No command writes a BUF byte outside its destination region, whether it succeeds or fails, and only ENCODE and DECODE
have one (20_memory.md R214). -/
def Obligations.CommandsWriteOnlyDestination : Prop :=
  ∀ (i : Instr) (s t : State), exec i s = .next t →
    ∀ a, ¬ ((i = .encode ∨ i = .decode)
            ∧ s.dstAddr.toNat ≤ a ∧ a < s.dstAddr.toNat + s.dstCap.toNat) →
      readByte t a = readByte s a

/-- ENCODE and DECODE on success store exactly RESULT_LEN bytes at DST_ADDR: every byte outside
[DST_ADDR, DST_ADDR + RESULT_LEN) reads as before, the rest of the destination region among them (45_encoder.md R657;
46_decoder.md R728). -/
def Obligations.StoresOnlyResultBytes : Prop :=
  ∀ (i : Instr) (s t : State), i = .encode ∨ i = .decode → s.errCode = 0 → exec i s = .next t → t.errCode = 0 →
    t.resultLen.toNat ≤ s.dstCap.toNat
    ∧ ∀ a, a < s.dstAddr.toNat ∨ s.dstAddr.toNat + t.resultLen.toNat ≤ a → readByte t a = readByte s a

/-- An ENCODE that fails writes no BUF byte, and its tables are invalidated (45_encoder.md R659). -/
def Obligations.EncodeFailureWritesNothing : Prop :=
  ∀ (s t : State), s.errCode = 0 → exec .encode s = .next t → t.errCode ≠ 0 →
    t.buf = s.buf ∧ t.ft = none ∧ t.nodes = none ∧ t.ct = none

/-- The range checks (60_exceptions.md R812), exact and in their order: COUNT and PARSEFT check the source, ENCODE and
DECODE the source, the destination and then the overlap; a command that fails one of them leaves every BUF byte
as it was, and one whose checks pass never reports BUFFER_RANGE (20_memory.md R215). That a failing DECODE keeps its
destination bytes here is the model's reading of R215 and R812 beside R728 and R824 (log 11). -/
def Obligations.RangeChecksFail : Prop :=
  ∀ s : State, s.errCode = 0 →
    (∀ i ∈ [Instr.count, .parseft, .encode, .decode], s.srcAddr.toNat + s.srcLen.toNat > s.cfgBufSize.toNat →
      ∃ t, exec i s = .next t ∧ Failed t 7 1 0 ∧ t.buf = s.buf)
    ∧ (∀ i ∈ [Instr.encode, .decode], s.srcAddr.toNat + s.srcLen.toNat ≤ s.cfgBufSize.toNat →
        s.dstAddr.toNat + s.dstCap.toNat > s.cfgBufSize.toNat →
        ∃ t, exec i s = .next t ∧ Failed t 7 2 0 ∧ t.buf = s.buf)
    ∧ (∀ i ∈ [Instr.encode, .decode], s.srcAddr.toNat + s.srcLen.toNat ≤ s.cfgBufSize.toNat →
        s.dstAddr.toNat + s.dstCap.toNat ≤ s.cfgBufSize.toNat →
        s.srcLen.toNat > 0 → s.dstCap.toNat > 0 → s.srcAddr.toNat < s.dstAddr.toNat + s.dstCap.toNat →
        s.dstAddr.toNat < s.srcAddr.toNat + s.srcLen.toNat →
        ∃ t, exec i s = .next t ∧ Failed t 7 3 0 ∧ t.buf = s.buf)
    ∧ (∀ i t, RangeOk i s → exec i s = .next t → t.errCode ≠ 7)

/-! ### COUNT -/

/-- COUNT of a text of supported symbols that fit the table leaves its tally in FT and the number of symbols in RESULT_AUX,
with NODE and CT invalid and nothing else changed (42_frequency_counter.md R500, R510). -/
def Obligations.CountTalliesText : Prop :=
  ∀ (s : State) (syms : List Sym) (f : List FtEntry),
    SrcOk s → sourceBytes s = textOf syms → (∀ v ∈ syms, symOk v = true) → Tally f syms →
    f.length ≤ s.cfgMaxDistinct.toNat →
    exec .count s = .next { s with ft := some f, nodes := none, ct := none, resultLen := 0,
                                   resultAux := BitVec.ofNat 32 syms.length, phase := .idle, done := true }

/-- The errors of count_text, for COUNT and for ENCODE, at the first symbol that fails (42_frequency_counter.md R501, R502):
ill-formed UTF-8 before the null symbol before capacity, with the offset of that symbol in ERR_INFO. -/
def Obligations.CountTextErrors : Prop :=
  ∀ (i : Instr) (s : State) (syms : List Sym) (f : List FtEntry) (rest : List Byte),
    i = .count ∨ i = .encode → RangeOk i s →
    sourceBytes s = textOf syms ++ rest → (∀ v ∈ syms, symOk v = true) → Tally f syms →
    f.length ≤ s.cfgMaxDistinct.toNat → rest ≠ [] →
    (utf8At rest = none →
      ∃ t, exec i s = .next t ∧ Failed t 2 1 (BitVec.ofNat 32 (textOf syms).length))
    ∧ (∀ n, utf8At rest = some (0, n) →
      ∃ t, exec i s = .next t ∧ Failed t 2 2 (BitVec.ofNat 32 (textOf syms).length))
    ∧ (∀ v n, utf8At rest = some (v, n) → v ≠ 0 → v ∉ syms → f.length = s.cfgMaxDistinct.toNat →
      ∃ t, exec i s = .next t ∧ Failed t 9 0 (BitVec.ofNat 32 (textOf syms).length))

/-- COUNT_OVERFLOW with sub-cause 2 cannot occur (42_frequency_counter.md R504). -/
def Obligations.CountOverflowUnreachable : Prop :=
  ∀ (i : Instr) (s t : State), i = .count ∨ i = .encode → s.errCode = 0 → exec i s = .next t →
    ¬ (t.errCode = 3 ∧ t.errSub = 2)

/-! ### Data encodings -/

/-- UTF-8 (30_encoding.md R321): utf8(v) is the unique byte sequence that utf8_at reads as (v, utf8len(v)), whatever
follows it, and it holds a 0x00 byte iff v is U+0000; what utf8_at reads is always a scalar value. -/
def Obligations.Utf8RoundTrip : Prop :=
  (∀ v : Sym, isScalar v = true →
    (utf8 v).length = utf8len v ∧ (0#8 ∈ utf8 v ↔ v = 0)
    ∧ ∀ rest, utf8At (utf8 v ++ rest) = some (v, utf8len v))
  ∧ (∀ (bs : List Byte) (v : Sym) (n : Nat), utf8At bs = some (v, n) →
      isScalar v = true ∧ n = utf8len v ∧ bs.take n = utf8 v)

/-- LEB128 (30_encoding.md R325, R326): a count written with leb and read back is the same count, of leblen bytes, whatever
follows it. -/
def Obligations.LebRoundTrip : Prop :=
  ∀ (c : Word) (rest : List Byte),
    (leb c).length = leblen c ∧ readVarint (leb c ++ rest) = some (c.toNat, leblen c)

/-- Sentinel safety (30_encoding.md R327; 45_encoder.md R660): leb(c) for c >= 1 holds no 0x00 byte, every byte but its last
has bit 7 set and its last is neither 0 nor has bit 7 set; no frequency-table segment of non-null symbols and counts >= 1
holds a 0x00 byte; so the first 0x00 of an artifact ENCODE makes is its sentinel. -/
def Obligations.FtSegmentHasNoZero : Prop :=
  (∀ c : Word, c ≠ 0 →
    0#8 ∉ leb c ∧ (∀ b ∈ (leb c).dropLast, b.getLsbD 7 = true)
    ∧ ∃ b, (leb c).getLast? = some b ∧ b ≠ 0 ∧ b.getLsbD 7 = false)
  ∧ (∀ f : List FtEntry, (∀ e ∈ f, symOk e.sym = true ∧ e.count ≠ 0) → 0#8 ∉ serialiseFt f)
  ∧ (∀ m cap text r, encodeText m cap text = .ok r →
      sentinelAt r.bytes = some (serialiseFt r.ft).length)

/-- Bit packing (30_encoding.md R335): stream bit i is bit 7 - (i mod 8) of packed byte i div 8, for the packer and for the
reader; the packer makes ceil(bitlen / 8) bytes and writes the padding as 0. -/
def Obligations.PackedBitsLayout : Prop :=
  (∀ bits : Bits,
    (packBits bits).length = ceilDiv8 bits.length
    ∧ ∀ i, i < 8 * ceilDiv8 bits.length →
        ((packBits bits)[i / 8]?).map (fun b => b.getLsbD (7 - i % 8)) = some (bits.getD i false))
  ∧ (∀ (n : Nat) (packed : List Byte), n ≤ 8 * packed.length →
      (streamBits n packed).length = n
      ∧ ∀ i, i < n → (streamBits n packed)[i]? = (packed[i / 8]?).map (fun b => b.getLsbD (7 - i % 8)))

/-! ### PARSEFT and the metadata parser -/

/-- PARSEFT of a frequency-table segment of valid entries in any order, with anything after the sentinel, leaves the sorted
table in FT, RESULT_LEN s + 1 and RESULT_AUX n, with NODE and CT invalid and nothing else changed (46_decoder.md R700,
R702). -/
def Obligations.ParseftReadsTable : Prop :=
  ∀ (s : State) (f g : List FtEntry) (rest : List Byte),
    SrcOk s → sourceBytes s = serialiseFt f ++ 0#8 :: rest → (∀ e ∈ f, symOk e.sym = true ∧ e.count ≠ 0) →
    g.Perm f → ftRises g = true → f.length ≤ s.cfgMaxDistinct.toNat →
    exec .parseft s = .next { s with ft := some g, nodes := none, ct := none,
                                     resultLen := BitVec.ofNat 32 ((serialiseFt f).length + 1),
                                     resultAux := BitVec.ofNat 32 f.length, phase := .idle, done := true }

/-- The sentinel scan (46_decoder.md R701): s is the least offset of a 0x00 byte; without one PARSEFT and DECODE fail with
MALFORMED_ARTIFACT, sub-cause 1, and SRC_LEN in ERR_INFO. -/
def Obligations.SentinelScanFinds : Prop :=
  (∀ (art : List Byte) (k : Nat),
    sentinelAt art = some k ↔ art[k]? = some 0#8 ∧ ∀ j < k, art[j]? ≠ some 0#8)
  ∧ (∀ (i : Instr) (s : State), i = .parseft ∨ i = .decode → RangeOk i s → 0#8 ∉ sourceBytes s →
      ∃ t, exec i s = .next t ∧ Failed t 4 1 s.srcLen)

/-- The checks of one entry, in their order, at the first entry that fails, for PARSEFT and for DECODE (46_decoder.md R704,
R703). -/
def Obligations.ParserEntryErrors : Prop :=
  ∀ (i : Instr) (s : State) (f : List FtEntry) (bad rest : List Byte),
    i = .parseft ∨ i = .decode → RangeOk i s → sourceBytes s = serialiseFt f ++ bad ++ 0#8 :: rest →
    (∀ e ∈ f, symOk e.sym = true ∧ e.count ≠ 0) → (f.map (·.sym)).Nodup → f.length ≤ s.cfgMaxDistinct.toNat →
    bad ≠ [] → 0#8 ∉ bad →
    (utf8At bad = none →
      ∃ t, exec i s = .next t ∧ Failed t 4 2 (BitVec.ofNat 32 (serialiseFt f).length))
    ∧ (∀ v n, utf8At bad = some (v, n) → v ∈ f.map (·.sym) →
      ∃ t, exec i s = .next t ∧ Failed t 4 3 (BitVec.ofNat 32 (serialiseFt f).length))
    ∧ (∀ v n, utf8At bad = some (v, n) → v ∉ f.map (·.sym) → f.length = s.cfgMaxDistinct.toNat →
      ∃ t, exec i s = .next t ∧ Failed t 9 0 (BitVec.ofNat 32 (serialiseFt f).length))
    ∧ (∀ v n, utf8At bad = some (v, n) → v ∉ f.map (·.sym) → f.length < s.cfgMaxDistinct.toNat →
      readVarint (bad.drop n) = none →
      ∃ t, exec i s = .next t ∧ Failed t 4 4 (BitVec.ofNat 32 ((serialiseFt f).length + n)))
    ∧ (∀ v n c k, utf8At bad = some (v, n) → v ∉ f.map (·.sym) → f.length < s.cfgMaxDistinct.toNat →
      readVarint (bad.drop n) = some (c, k) → c > 4294967295 →
      ∃ t, exec i s = .next t ∧ Failed t 3 1 (BitVec.ofNat 32 ((serialiseFt f).length + n)))

/-! ### BUILD -/

/-- SEQUENCE_ERROR and EMPTY_INPUT (60_exceptions.md R810; 43_tree_builder.md R564): BUILD without FT, GENCODE without NODE,
and BUILD of an empty FT fail, each with everything else unchanged but its target tables. -/
def Obligations.SequenceErrors : Prop :=
  ∀ s : State,
    (s.ft = none →
      exec .build s = .next { s with nodes := none, ct := none, errCode := 10, errSub := 1, errInfo := 0,
                                     resultLen := 0, resultAux := 0, phase := .idle, done := true })
    ∧ (s.nodes = none →
      exec .gencode s = .next { s with ct := none, errCode := 10, errSub := 2, errInfo := 0,
                                       resultLen := 0, resultAux := 0, phase := .idle, done := true })
    ∧ (s.ft = some [] →
      exec .build s = .next { s with nodes := none, ct := none, errCode := 1, errSub := 0, errInfo := 0,
                                     resultLen := 0, resultAux := 0, phase := .idle, done := true })

/-- BUILD of a non-empty FT completes with RESULT_AUX 2n - 1 and leaves a tree with the layout of R133: n leaves in FT order,
then one internal node per merge with seq k and children before it (43_tree_builder.md R550, R575; 10_state.md R133). -/
def Obligations.BuildMakesTree : Prop :=
  ∀ (s : State) (f : List FtEntry), s.ft = some f → f ≠ [] →
    ∃ ns, exec .build s = .next { s with nodes := some ns, ct := none, resultLen := 0,
                                         resultAux := BitVec.ofNat 32 (2 * f.length - 1), phase := .idle, done := true }
      ∧ ns.length = 2 * f.length - 1
      ∧ (∀ (i : Nat) e, f[i]? = some e → ns[i]? = some (.leaf (e.count.setWidth 64) e.sym))
      ∧ (∀ k : Nat, k < f.length - 1 → ∃ w l r, ns[f.length + k]? = some (.internal w l r k)
          ∧ l < f.length + k ∧ r < f.length + k)

/-- The weight invariant (43_tree_builder.md R572): every internal weight is the exact sum of its children's, every leaf's is
its count, and the root's is the sum of all counts. The bound on n is that of 00_scope.md R11. -/
def Obligations.TreeWeights : Prop :=
  ∀ (f : List FtEntry) (ns : List Node), buildTree f = .ok ns → f.length ≤ 1112063 →
    (∀ (i : Nat) w l r q, ns[i]? = some (.internal w l r q) →
      ∃ a b, ns[l]? = some a ∧ ns[r]? = some b ∧ w.toNat = a.weight.toNat + b.weight.toNat)
    ∧ (∀ (i : Nat) e, f[i]? = some e → ∃ a, ns[i]? = some a ∧ a.weight.toNat = e.count.toNat)
    ∧ (∃ a, ns[rootOf ns]? = some a ∧ a.weight.toNat = (f.map (fun e => e.count.toNat)).sum)

/-- Every node but the root is the child of exactly one internal node, and the root of none (10_state.md R134). -/
def Obligations.TreeHasOneParentEach : Prop :=
  ∀ (f : List FtEntry) (ns : List Node), buildTree f = .ok ns →
    ∀ i < ns.length, (ns.flatMap childrenOf).count i = if i = rootOf ns then 0 else 1

/-- The first-extracted node of a merge, the one with the lesser key, is the left child (43_tree_builder.md R562, R560). -/
def Obligations.FirstExtractedIsLeft : Prop :=
  ∀ (m : Nat) (f : List FtEntry) (ns : List Node), ftWf m f = true → buildTree f = .ok ns →
    ∀ (i : Nat) w l r q, ns[i]? = some (.internal w l r q) →
      ∃ a b, ns[l]? = some a ∧ ns[r]? = some b ∧ keyLt a.key b.key = true

/-- Two-queue equivalence (43_tree_builder.md R570): the sorter with a FIFO yields exactly the NODE of build_tree, for every
frequency table a block can hold. -/
def Obligations.TwoQueueEquivalence : Prop :=
  ∀ (f : List FtEntry), ftWf 1112063 f = true → twoQueueTree f = buildTree f

/-! ### GENCODE -/

/-- GENCODE of the tree of FT completes and leaves, for each FT entry, its symbol with the bits of the path from the root to
its leaf, and the greatest code length in RESULT_AUX; nothing else changes (44_code_table.md R600, R601). -/
def Obligations.GencodeWritesPaths : Prop :=
  ∀ (s : State) (f : List FtEntry) (ns : List Node), s.nodes = some ns → buildTree f = .ok ns →
    ∃ (cs : List CtEntry) (m : Nat),
      exec .gencode s = .next { s with ct := some cs, resultLen := 0, resultAux := BitVec.ofNat 32 m,
                                       phase := .idle, done := true }
      ∧ cs.length = f.length
      ∧ (∀ (i : Nat) e, f[i]? = some e → ∃ x, cs[i]? = some x ∧ x.sym = e.sym
          ∧ followBits ns (rootOf ns) x.code = some i)
      ∧ (∀ x ∈ cs, x.code.length ≤ m) ∧ ∃ x ∈ cs, x.code.length = m

/-- The prefix property (44_code_table.md R604; 10_state.md R136): for n >= 2 every code is non-empty, no code is a prefix of
another, and the Kraft sum is exactly 1; for n = 1 the one code is empty. -/
def Obligations.CodesArePrefixFree : Prop :=
  ∀ (f : List FtEntry) (ns : List Node), buildTree f = .ok ns →
    (2 ≤ f.length →
      (∀ x ∈ genCodes ns, x.code ≠ [])
      ∧ (∀ (i j : Nat) x y, i ≠ j → (genCodes ns)[i]? = some x → (genCodes ns)[j]? = some y → ¬ x.code <+: y.code)
      ∧ ((genCodes ns).map (fun x => (1 / 2 : ℚ) ^ x.code.length)).sum = 1)
    ∧ (∀ e, f = [e] → genCodes ns = [⟨e.sym, []⟩])

/-! ### ENCODE -/

/-- ENCODE of a text of supported symbols whose artifact fits: it completes with RESULT_LEN the size and RESULT_AUX the bit
length, leaves the tally, its tree and its codes, and stores FTSEG, the sentinel, the header and the packed codes of the
text at DST_ADDR; nothing else changes (45_encoder.md R650, R655 to R657). -/
def Obligations.EncodeWritesArtifact : Prop :=
  ∀ (s : State) (syms : List Sym) (f : List FtEntry) (ns : List Node) (bits : Bits) (art : List Byte),
    RangeOk .encode s → sourceBytes s = textOf syms → (∀ v ∈ syms, symOk v = true) → Tally f syms →
    f.length ≤ s.cfgMaxDistinct.toNat → buildTree f = .ok ns → bits = codesOf (genCodes ns) syms →
    bits.length ≤ 4294967295 →
    art = serialiseFt f ++ [0#8] ++ be32 (BitVec.ofNat 32 bits.length) ++ packBits bits →
    art.length ≤ s.dstCap.toNat →
    exec .encode s = .next { s with ft := some f, nodes := some ns, ct := some (genCodes ns),
                                    buf := Memory.writeList s.buf s.dstAddr.toNat art,
                                    resultLen := BitVec.ofNat 32 art.length,
                                    resultAux := BitVec.ofNat 32 bits.length, phase := .idle, done := true }

/-- The errors of ENCODE after the counting pass, in their order (45_encoder.md R650, R653, R654): EMPTY_INPUT for an empty
text, COUNT_OVERFLOW with sub-cause 3 when the bit length does not fit its header, OUTPUT_OVERFLOW with the size when the
artifact does not fit its region. -/
def Obligations.EncodeErrors : Prop :=
  ∀ s : State, RangeOk .encode s →
    (s.srcLen = 0 → ∃ t, exec .encode s = .next t ∧ Failed t 1 0 0)
    ∧ (∀ (syms : List Sym) (f : List FtEntry) (ns : List Node) (bits : Bits),
        sourceBytes s = textOf syms → (∀ v ∈ syms, symOk v = true) → Tally f syms →
        f.length ≤ s.cfgMaxDistinct.toNat → buildTree f = .ok ns → bits = codesOf (genCodes ns) syms →
        (bits.length > 4294967295 → ∃ t, exec .encode s = .next t ∧ Failed t 3 3 0)
        ∧ (bits.length ≤ 4294967295 → ftSegLength f + 5 + ceilDiv8 bits.length > s.dstCap.toNat →
            ∃ t, exec .encode s = .next t
              ∧ Failed t 8 0 (BitVec.ofNat 32 (ftSegLength f + 5 + ceilDiv8 bits.length))))

/-- ENCODE leaves the tables that COUNT, BUILD and GENCODE in sequence leave (45_encoder.md R652). -/
def Obligations.EncodeEqualsUnits : Prop :=
  ∀ (s t : State), s.errCode = 0 → exec .encode s = .next t → t.errCode = 0 →
    ∃ t1 t2 t3, exec .count s = .next t1 ∧ exec .build t1 = .next t2 ∧ exec .gencode t2 = .next t3
      ∧ t3.errCode = 0 ∧ t3.ft = t.ft ∧ t3.nodes = t.nodes ∧ t3.ct = t.ct

/-- Round trip (45_encoder.md R661): when ENCODE succeeds on a text, DECODE of the artifact it wrote, into a region apart from
it with room for the text, succeeds, writes exactly the text and reports its length. -/
def Obligations.EncodeDecodeRoundTrip : Prop :=
  ∀ (s t u : State) (d c : Word), s.errCode = 0 → exec .encode s = .next t → t.errCode = 0 →
    u = { t with srcAddr := t.dstAddr, srcLen := t.resultLen, dstAddr := d, dstCap := c } →
    RangeOk .decode u → s.srcLen.toNat ≤ c.toNat →
    ∃ v, exec .decode u = .next v ∧ v.errCode = 0 ∧ v.resultLen = s.srcLen
      ∧ memRead v d.toNat s.srcLen.toNat = sourceBytes s

/-! ### DECODE -/

/-- DECODE of a well-formed artifact with n >= 2: entries in any order, a stream that is a concatenation of whole codes, any
padding bits and any trailing bytes. It completes with the byte and symbol counts, leaves FT and NODE valid and CT invalid,
stores the text at DST_ADDR, and changes nothing else (46_decoder.md R720, R722, R724, R728 to R730). -/
def Obligations.DecodeWritesText : Prop :=
  ∀ (s : State) (f g : List FtEntry) (ns : List Node) (syms : List Sym) (bitlen : Nat) (packed : List Byte),
    RangeOk .decode s →
    sourceBytes s = serialiseFt f ++ [0#8] ++ be32 (BitVec.ofNat 32 bitlen) ++ packed → bitlen ≤ 4294967295 →
    (∀ e ∈ f, symOk e.sym = true ∧ e.count ≠ 0) → g.Perm f → ftRises g = true →
    2 ≤ f.length → f.length ≤ s.cfgMaxDistinct.toNat → buildTree g = .ok ns →
    bitlen ≤ 8 * packed.length → (∀ v ∈ syms, v ∈ g.map (·.sym)) →
    streamBits bitlen packed = codesOf (genCodes ns) syms → (textOf syms).length ≤ s.dstCap.toNat →
    exec .decode s = .next { s with ft := some g, nodes := some ns, ct := none,
                                    buf := Memory.writeList s.buf s.dstAddr.toNat (textOf syms),
                                    resultLen := BitVec.ofNat 32 (textOf syms).length,
                                    resultAux := BitVec.ofNat 32 syms.length, phase := .idle, done := true }

/-- The single-leaf tree (46_decoder.md R725): with bitlen 0 the output is count copies of the one symbol, FT is its one
entry, NODE the single leaf and CT invalid (R729), and nothing else changes; any stream bit is CORRUPT_STREAM with
sub-cause 1. A region too small for the copies is OUTPUT_OVERFLOW with the bytes needed up to the first copy that does not
fit. -/
def Obligations.DecodeSingleLeaf : Prop :=
  ∀ (s : State) (e : FtEntry) (bitlen : Nat) (packed : List Byte),
    RangeOk .decode s →
    sourceBytes s = serialiseFt [e] ++ [0#8] ++ be32 (BitVec.ofNat 32 bitlen) ++ packed → bitlen ≤ 4294967295 →
    symOk e.sym = true → e.count ≠ 0 → 1 ≤ s.cfgMaxDistinct.toNat → bitlen ≤ 8 * packed.length →
    (bitlen > 0 → ∃ t, exec .decode s = .next t ∧ Failed t 5 1 0)
    ∧ (bitlen = 0 → e.count.toNat * utf8len e.sym ≤ s.dstCap.toNat →
        exec .decode s = .next { s with ft := some [e], nodes := some [.leaf (e.count.setWidth 64) e.sym], ct := none,
                                        buf := Memory.writeList s.buf s.dstAddr.toNat
                                          (textOf (List.replicate e.count.toNat e.sym)),
                                        resultLen := BitVec.ofNat 32 (e.count.toNat * utf8len e.sym),
                                        resultAux := e.count, phase := .idle, done := true })
    ∧ (bitlen = 0 → s.dstCap.toNat < e.count.toNat * utf8len e.sym →
        ∃ t, exec .decode s = .next t
          ∧ Failed t 8 0 (BitVec.ofNat 32 (min ((s.dstCap.toNat / utf8len e.sym + 1) * utf8len e.sym) 4294967295)))

/-- The errors of the walk for n >= 2 (46_decoder.md R726, R728): a stream that ends inside a codeword is CORRUPT_STREAM with
sub-cause 2 and the start bit of that codeword; the first symbol that does not fit is OUTPUT_OVERFLOW with the bytes needed
up to it, saturated. -/
def Obligations.DecodeWalkErrors : Prop :=
  ∀ (s : State) (f g : List FtEntry) (ns : List Node) (syms : List Sym) (tail : Bits) (bitlen : Nat)
    (packed : List Byte),
    RangeOk .decode s →
    sourceBytes s = serialiseFt f ++ [0#8] ++ be32 (BitVec.ofNat 32 bitlen) ++ packed → bitlen ≤ 4294967295 →
    (∀ e ∈ f, symOk e.sym = true ∧ e.count ≠ 0) → g.Perm f → ftRises g = true →
    2 ≤ f.length → f.length ≤ s.cfgMaxDistinct.toNat → buildTree g = .ok ns →
    bitlen ≤ 8 * packed.length → (∀ v ∈ syms, v ∈ g.map (·.sym)) →
    streamBits bitlen packed = codesOf (genCodes ns) syms ++ tail → (textOf syms).length ≤ s.dstCap.toNat →
    (tail ≠ [] → (∃ x ∈ genCodes ns, tail <+: x.code ∧ tail ≠ x.code) →
      ∃ t, exec .decode s = .next t
        ∧ Failed t 5 2 (BitVec.ofNat 32 (codesOf (genCodes ns) syms).length))
    ∧ (∀ x ∈ genCodes ns, x.code <+: tail → (textOf syms).length + (utf8 x.sym).length > s.dstCap.toNat →
      ∃ t, exec .decode s = .next t
        ∧ Failed t 8 0 (BitVec.ofNat 32 (min ((textOf syms).length + (utf8 x.sym).length) 4294967295)))

/-- The header and what follows it (46_decoder.md R721, R722, R723): the value is big-endian; a header of fewer than 4 bytes
is MALFORMED_ARTIFACT with sub-cause 5, a bit length beyond the packed bytes is sub-cause 6, and then an empty table is
EMPTY_INPUT. -/
def Obligations.DecodeHeaderErrors : Prop :=
  (∀ a b c d : Byte, beValue [a, b, c, d] = a.toNat * 2 ^ 24 + b.toNat * 2 ^ 16 + c.toNat * 2 ^ 8 + d.toNat)
  ∧ ∀ (s : State) (f : List FtEntry) (header packed : List Byte),
    RangeOk .decode s → sourceBytes s = serialiseFt f ++ [0#8] ++ header ++ packed →
    (∀ e ∈ f, symOk e.sym = true ∧ e.count ≠ 0) → (f.map (·.sym)).Nodup → f.length ≤ s.cfgMaxDistinct.toNat →
    (header.length < 4 → packed = [] →
      ∃ t, exec .decode s = .next t ∧ Failed t 4 5 (BitVec.ofNat 32 ((serialiseFt f).length + 1)))
    ∧ (header.length = 4 → beValue header > 8 * packed.length →
      ∃ t, exec .decode s = .next t ∧ Failed t 4 6 (BitVec.ofNat 32 ((serialiseFt f).length + 5)))
    ∧ (header.length = 4 → beValue header ≤ 8 * packed.length → f = [] →
      ∃ t, exec .decode s = .next t ∧ Failed t 1 0 0)

/-! ### Invariants of every step -/

/-- Every step keeps BUF in its canonical form, with no byte recorded outside BUF (10_state.md R145; 60_exceptions.md
R812). -/
def Obligations.StepKeepsMemory : Prop :=
  ∀ s t : State, MemInv s → step s = .next t → MemInv t

/-- Every step keeps FT, when valid, a frequency table: ascending, distinct, supported symbols, counts of at least 1, no more
than MAX_DISTINCT entries (10_state.md R130, R131). -/
def Obligations.StepKeepsFrequencyTable : Prop :=
  ∀ s t : State, FtInv s → step s = .next t → FtInv t

/-- Every step keeps the implications of the valid flags: NODE, when valid, is the tree of FT, and CT, when valid, the codes
of NODE (10_state.md R137). -/
def Obligations.StepKeepsTables : Prop :=
  ∀ s t : State, TablesInv s → step s = .next t → TablesInv t

/-- Every step keeps the report well formed: ERR_CODE at most 10, no sub-cause or info on success, no results on failure, and
nothing pending while BUSY (10_state.md R117, R122; 60_exceptions.md R801, R832). -/
def Obligations.StepKeepsReport : Prop :=
  ∀ s t : State, ReportInv s → BusyInv s → step s = .next t → ReportInv t ∧ BusyInv t

/-- The state after reset, for every value of the two parameters, meets every invariant (10_state.md R150). -/
def Obligations.ResetIsSafe : Prop :=
  (∀ m b : Word, Safe (State.resetWith m b)) ∧ Safe State.reset
end

