-- ==== Sys2Proof/Laws/State.lean ====
section
/-! SUPPORT. One lemma per field per update of the state, each true by rfl, so that no later proof unfolds a record update. -/

namespace Sys2Proof.Machine

variable (s : State)

/-! ### invalidate -/

@[simp] theorem invalidate_cfgMaxDistinct (x : Targets) : (invalidate x s).cfgMaxDistinct = s.cfgMaxDistinct := rfl
@[simp] theorem invalidate_cfgBufSize (x : Targets) : (invalidate x s).cfgBufSize = s.cfgBufSize := rfl
@[simp] theorem invalidate_phase (x : Targets) : (invalidate x s).phase = s.phase := rfl
@[simp] theorem invalidate_curOp (x : Targets) : (invalidate x s).curOp = s.curOp := rfl
@[simp] theorem invalidate_irqEn (x : Targets) : (invalidate x s).irqEn = s.irqEn := rfl
@[simp] theorem invalidate_done (x : Targets) : (invalidate x s).done = s.done := rfl
@[simp] theorem invalidate_dropped (x : Targets) : (invalidate x s).dropped = s.dropped := rfl
@[simp] theorem invalidate_errCode (x : Targets) : (invalidate x s).errCode = s.errCode := rfl
@[simp] theorem invalidate_errSub (x : Targets) : (invalidate x s).errSub = s.errSub := rfl
@[simp] theorem invalidate_errInfo (x : Targets) : (invalidate x s).errInfo = s.errInfo := rfl
@[simp] theorem invalidate_srcAddr (x : Targets) : (invalidate x s).srcAddr = s.srcAddr := rfl
@[simp] theorem invalidate_srcLen (x : Targets) : (invalidate x s).srcLen = s.srcLen := rfl
@[simp] theorem invalidate_dstAddr (x : Targets) : (invalidate x s).dstAddr = s.dstAddr := rfl
@[simp] theorem invalidate_dstCap (x : Targets) : (invalidate x s).dstCap = s.dstCap := rfl
@[simp] theorem invalidate_resultLen (x : Targets) : (invalidate x s).resultLen = s.resultLen := rfl
@[simp] theorem invalidate_resultAux (x : Targets) : (invalidate x s).resultAux = s.resultAux := rfl
@[simp] theorem invalidate_tblSel (x : Targets) : (invalidate x s).tblSel = s.tblSel := rfl
@[simp] theorem invalidate_tblIdx (x : Targets) : (invalidate x s).tblIdx = s.tblIdx := rfl
@[simp] theorem invalidate_ft (x : Targets) : (invalidate x s).ft = if x.ft then none else s.ft := rfl
@[simp] theorem invalidate_nodes (x : Targets) : (invalidate x s).nodes = if x.nodes then none else s.nodes := rfl
@[simp] theorem invalidate_ct (x : Targets) : (invalidate x s).ct = if x.ct then none else s.ct := rfl
@[simp] theorem invalidate_buf (x : Targets) : (invalidate x s).buf = s.buf := rfl
@[simp] theorem invalidate_powerOn (x : Targets) : (invalidate x s).powerOn = s.powerOn := rfl
@[simp] theorem invalidate_draws (x : Targets) : (invalidate x s).draws = s.draws := rfl
@[simp] theorem invalidate_hostOps (x : Targets) : (invalidate x s).hostOps = s.hostOps := rfl
@[simp] theorem invalidate_hostReads (x : Targets) : (invalidate x s).hostReads = s.hostReads := rfl
@[simp] theorem invalidate_schedule (x : Targets) : (invalidate x s).schedule = s.schedule := rfl

/-! ### raiseErr -/

@[simp] theorem raiseErr_cfgMaxDistinct (x : Targets) (e : Err) : (raiseErr x e s).cfgMaxDistinct = s.cfgMaxDistinct := rfl
@[simp] theorem raiseErr_cfgBufSize (x : Targets) (e : Err) : (raiseErr x e s).cfgBufSize = s.cfgBufSize := rfl
@[simp] theorem raiseErr_phase (x : Targets) (e : Err) : (raiseErr x e s).phase = .idle := rfl
@[simp] theorem raiseErr_curOp (x : Targets) (e : Err) : (raiseErr x e s).curOp = s.curOp := rfl
@[simp] theorem raiseErr_irqEn (x : Targets) (e : Err) : (raiseErr x e s).irqEn = s.irqEn := rfl
@[simp] theorem raiseErr_done (x : Targets) (e : Err) : (raiseErr x e s).done = true := rfl
@[simp] theorem raiseErr_dropped (x : Targets) (e : Err) : (raiseErr x e s).dropped = s.dropped := rfl
@[simp] theorem raiseErr_errCode (x : Targets) (e : Err) : (raiseErr x e s).errCode = e.kind.code := rfl
@[simp] theorem raiseErr_errSub (x : Targets) (e : Err) : (raiseErr x e s).errSub = e.sub := rfl
@[simp] theorem raiseErr_errInfo (x : Targets) (e : Err) : (raiseErr x e s).errInfo = e.info := rfl
@[simp] theorem raiseErr_srcAddr (x : Targets) (e : Err) : (raiseErr x e s).srcAddr = s.srcAddr := rfl
@[simp] theorem raiseErr_srcLen (x : Targets) (e : Err) : (raiseErr x e s).srcLen = s.srcLen := rfl
@[simp] theorem raiseErr_dstAddr (x : Targets) (e : Err) : (raiseErr x e s).dstAddr = s.dstAddr := rfl
@[simp] theorem raiseErr_dstCap (x : Targets) (e : Err) : (raiseErr x e s).dstCap = s.dstCap := rfl
@[simp] theorem raiseErr_resultLen (x : Targets) (e : Err) : (raiseErr x e s).resultLen = 0 := rfl
@[simp] theorem raiseErr_resultAux (x : Targets) (e : Err) : (raiseErr x e s).resultAux = 0 := rfl
@[simp] theorem raiseErr_tblSel (x : Targets) (e : Err) : (raiseErr x e s).tblSel = s.tblSel := rfl
@[simp] theorem raiseErr_tblIdx (x : Targets) (e : Err) : (raiseErr x e s).tblIdx = s.tblIdx := rfl
@[simp] theorem raiseErr_ft (x : Targets) (e : Err) : (raiseErr x e s).ft = if x.ft then none else s.ft := rfl
@[simp] theorem raiseErr_nodes (x : Targets) (e : Err) : (raiseErr x e s).nodes = if x.nodes then none else s.nodes := rfl
@[simp] theorem raiseErr_ct (x : Targets) (e : Err) : (raiseErr x e s).ct = if x.ct then none else s.ct := rfl
@[simp] theorem raiseErr_buf (x : Targets) (e : Err) : (raiseErr x e s).buf = s.buf := rfl
@[simp] theorem raiseErr_powerOn (x : Targets) (e : Err) : (raiseErr x e s).powerOn = s.powerOn := rfl
@[simp] theorem raiseErr_draws (x : Targets) (e : Err) : (raiseErr x e s).draws = s.draws := rfl
@[simp] theorem raiseErr_hostOps (x : Targets) (e : Err) : (raiseErr x e s).hostOps = s.hostOps := rfl
@[simp] theorem raiseErr_hostReads (x : Targets) (e : Err) : (raiseErr x e s).hostReads = s.hostReads := rfl
@[simp] theorem raiseErr_schedule (x : Targets) (e : Err) : (raiseErr x e s).schedule = s.schedule := rfl

/-! ### complete -/

@[simp] theorem complete_cfgMaxDistinct (len aux : Word) : (complete len aux s).cfgMaxDistinct = s.cfgMaxDistinct := rfl
@[simp] theorem complete_cfgBufSize (len aux : Word) : (complete len aux s).cfgBufSize = s.cfgBufSize := rfl
@[simp] theorem complete_phase (len aux : Word) : (complete len aux s).phase = .idle := rfl
@[simp] theorem complete_curOp (len aux : Word) : (complete len aux s).curOp = s.curOp := rfl
@[simp] theorem complete_irqEn (len aux : Word) : (complete len aux s).irqEn = s.irqEn := rfl
@[simp] theorem complete_done (len aux : Word) : (complete len aux s).done = true := rfl
@[simp] theorem complete_dropped (len aux : Word) : (complete len aux s).dropped = s.dropped := rfl
@[simp] theorem complete_errCode (len aux : Word) : (complete len aux s).errCode = s.errCode := rfl
@[simp] theorem complete_errSub (len aux : Word) : (complete len aux s).errSub = s.errSub := rfl
@[simp] theorem complete_errInfo (len aux : Word) : (complete len aux s).errInfo = s.errInfo := rfl
@[simp] theorem complete_srcAddr (len aux : Word) : (complete len aux s).srcAddr = s.srcAddr := rfl
@[simp] theorem complete_srcLen (len aux : Word) : (complete len aux s).srcLen = s.srcLen := rfl
@[simp] theorem complete_dstAddr (len aux : Word) : (complete len aux s).dstAddr = s.dstAddr := rfl
@[simp] theorem complete_dstCap (len aux : Word) : (complete len aux s).dstCap = s.dstCap := rfl
@[simp] theorem complete_resultLen (len aux : Word) : (complete len aux s).resultLen = len := rfl
@[simp] theorem complete_resultAux (len aux : Word) : (complete len aux s).resultAux = aux := rfl
@[simp] theorem complete_tblSel (len aux : Word) : (complete len aux s).tblSel = s.tblSel := rfl
@[simp] theorem complete_tblIdx (len aux : Word) : (complete len aux s).tblIdx = s.tblIdx := rfl
@[simp] theorem complete_ft (len aux : Word) : (complete len aux s).ft = s.ft := rfl
@[simp] theorem complete_nodes (len aux : Word) : (complete len aux s).nodes = s.nodes := rfl
@[simp] theorem complete_ct (len aux : Word) : (complete len aux s).ct = s.ct := rfl
@[simp] theorem complete_buf (len aux : Word) : (complete len aux s).buf = s.buf := rfl
@[simp] theorem complete_powerOn (len aux : Word) : (complete len aux s).powerOn = s.powerOn := rfl
@[simp] theorem complete_draws (len aux : Word) : (complete len aux s).draws = s.draws := rfl
@[simp] theorem complete_hostOps (len aux : Word) : (complete len aux s).hostOps = s.hostOps := rfl
@[simp] theorem complete_hostReads (len aux : Word) : (complete len aux s).hostReads = s.hostReads := rfl
@[simp] theorem complete_schedule (len aux : Word) : (complete len aux s).schedule = s.schedule := rfl

/-! ### accept -/

@[simp] theorem accept_cfgMaxDistinct (w : Word) : (accept w s).cfgMaxDistinct = s.cfgMaxDistinct := rfl
@[simp] theorem accept_cfgBufSize (w : Word) : (accept w s).cfgBufSize = s.cfgBufSize := rfl
@[simp] theorem accept_phase (w : Word) : (accept w s).phase = .busy := rfl
@[simp] theorem accept_curOp (w : Word) : (accept w s).curOp = w := rfl
@[simp] theorem accept_irqEn (w : Word) : (accept w s).irqEn = s.irqEn := rfl
@[simp] theorem accept_done (w : Word) : (accept w s).done = false := rfl
@[simp] theorem accept_dropped (w : Word) : (accept w s).dropped = s.dropped := rfl
@[simp] theorem accept_errCode (w : Word) : (accept w s).errCode = 0 := rfl
@[simp] theorem accept_errSub (w : Word) : (accept w s).errSub = 0 := rfl
@[simp] theorem accept_errInfo (w : Word) : (accept w s).errInfo = 0 := rfl
@[simp] theorem accept_srcAddr (w : Word) : (accept w s).srcAddr = s.srcAddr := rfl
@[simp] theorem accept_srcLen (w : Word) : (accept w s).srcLen = s.srcLen := rfl
@[simp] theorem accept_dstAddr (w : Word) : (accept w s).dstAddr = s.dstAddr := rfl
@[simp] theorem accept_dstCap (w : Word) : (accept w s).dstCap = s.dstCap := rfl
@[simp] theorem accept_resultLen (w : Word) : (accept w s).resultLen = 0 := rfl
@[simp] theorem accept_resultAux (w : Word) : (accept w s).resultAux = 0 := rfl
@[simp] theorem accept_tblSel (w : Word) : (accept w s).tblSel = s.tblSel := rfl
@[simp] theorem accept_tblIdx (w : Word) : (accept w s).tblIdx = s.tblIdx := rfl
@[simp] theorem accept_ft (w : Word) : (accept w s).ft = s.ft := rfl
@[simp] theorem accept_nodes (w : Word) : (accept w s).nodes = s.nodes := rfl
@[simp] theorem accept_ct (w : Word) : (accept w s).ct = s.ct := rfl
@[simp] theorem accept_buf (w : Word) : (accept w s).buf = s.buf := rfl
@[simp] theorem accept_powerOn (w : Word) : (accept w s).powerOn = s.powerOn := rfl
@[simp] theorem accept_draws (w : Word) : (accept w s).draws = s.draws := rfl
@[simp] theorem accept_hostOps (w : Word) : (accept w s).hostOps = s.hostOps := rfl
@[simp] theorem accept_hostReads (w : Word) : (accept w s).hostReads = s.hostReads := rfl
@[simp] theorem accept_schedule (w : Word) : (accept w s).schedule = s.schedule := rfl

/-! ### memWrite -/

@[simp] theorem memWrite_cfgMaxDistinct (a : Nat) (bs : List Byte) : (memWrite a bs s).cfgMaxDistinct = s.cfgMaxDistinct := rfl
@[simp] theorem memWrite_cfgBufSize (a : Nat) (bs : List Byte) : (memWrite a bs s).cfgBufSize = s.cfgBufSize := rfl
@[simp] theorem memWrite_phase (a : Nat) (bs : List Byte) : (memWrite a bs s).phase = s.phase := rfl
@[simp] theorem memWrite_curOp (a : Nat) (bs : List Byte) : (memWrite a bs s).curOp = s.curOp := rfl
@[simp] theorem memWrite_irqEn (a : Nat) (bs : List Byte) : (memWrite a bs s).irqEn = s.irqEn := rfl
@[simp] theorem memWrite_done (a : Nat) (bs : List Byte) : (memWrite a bs s).done = s.done := rfl
@[simp] theorem memWrite_dropped (a : Nat) (bs : List Byte) : (memWrite a bs s).dropped = s.dropped := rfl
@[simp] theorem memWrite_errCode (a : Nat) (bs : List Byte) : (memWrite a bs s).errCode = s.errCode := rfl
@[simp] theorem memWrite_errSub (a : Nat) (bs : List Byte) : (memWrite a bs s).errSub = s.errSub := rfl
@[simp] theorem memWrite_errInfo (a : Nat) (bs : List Byte) : (memWrite a bs s).errInfo = s.errInfo := rfl
@[simp] theorem memWrite_srcAddr (a : Nat) (bs : List Byte) : (memWrite a bs s).srcAddr = s.srcAddr := rfl
@[simp] theorem memWrite_srcLen (a : Nat) (bs : List Byte) : (memWrite a bs s).srcLen = s.srcLen := rfl
@[simp] theorem memWrite_dstAddr (a : Nat) (bs : List Byte) : (memWrite a bs s).dstAddr = s.dstAddr := rfl
@[simp] theorem memWrite_dstCap (a : Nat) (bs : List Byte) : (memWrite a bs s).dstCap = s.dstCap := rfl
@[simp] theorem memWrite_resultLen (a : Nat) (bs : List Byte) : (memWrite a bs s).resultLen = s.resultLen := rfl
@[simp] theorem memWrite_resultAux (a : Nat) (bs : List Byte) : (memWrite a bs s).resultAux = s.resultAux := rfl
@[simp] theorem memWrite_tblSel (a : Nat) (bs : List Byte) : (memWrite a bs s).tblSel = s.tblSel := rfl
@[simp] theorem memWrite_tblIdx (a : Nat) (bs : List Byte) : (memWrite a bs s).tblIdx = s.tblIdx := rfl
@[simp] theorem memWrite_ft (a : Nat) (bs : List Byte) : (memWrite a bs s).ft = s.ft := rfl
@[simp] theorem memWrite_nodes (a : Nat) (bs : List Byte) : (memWrite a bs s).nodes = s.nodes := rfl
@[simp] theorem memWrite_ct (a : Nat) (bs : List Byte) : (memWrite a bs s).ct = s.ct := rfl
@[simp] theorem memWrite_buf (a : Nat) (bs : List Byte) : (memWrite a bs s).buf = Memory.writeList s.buf a bs := rfl
@[simp] theorem memWrite_powerOn (a : Nat) (bs : List Byte) : (memWrite a bs s).powerOn = s.powerOn := rfl
@[simp] theorem memWrite_draws (a : Nat) (bs : List Byte) : (memWrite a bs s).draws = s.draws := rfl
@[simp] theorem memWrite_hostOps (a : Nat) (bs : List Byte) : (memWrite a bs s).hostOps = s.hostOps := rfl
@[simp] theorem memWrite_hostReads (a : Nat) (bs : List Byte) : (memWrite a bs s).hostReads = s.hostReads := rfl
@[simp] theorem memWrite_schedule (a : Nat) (bs : List Byte) : (memWrite a bs s).schedule = s.schedule := rfl

/-! ### scribbleDest -/

@[simp] theorem scribbleDest_cfgMaxDistinct : (scribbleDest s).cfgMaxDistinct = s.cfgMaxDistinct := rfl
@[simp] theorem scribbleDest_cfgBufSize : (scribbleDest s).cfgBufSize = s.cfgBufSize := rfl
@[simp] theorem scribbleDest_phase : (scribbleDest s).phase = s.phase := rfl
@[simp] theorem scribbleDest_curOp : (scribbleDest s).curOp = s.curOp := rfl
@[simp] theorem scribbleDest_irqEn : (scribbleDest s).irqEn = s.irqEn := rfl
@[simp] theorem scribbleDest_done : (scribbleDest s).done = s.done := rfl
@[simp] theorem scribbleDest_dropped : (scribbleDest s).dropped = s.dropped := rfl
@[simp] theorem scribbleDest_errCode : (scribbleDest s).errCode = s.errCode := rfl
@[simp] theorem scribbleDest_errSub : (scribbleDest s).errSub = s.errSub := rfl
@[simp] theorem scribbleDest_errInfo : (scribbleDest s).errInfo = s.errInfo := rfl
@[simp] theorem scribbleDest_srcAddr : (scribbleDest s).srcAddr = s.srcAddr := rfl
@[simp] theorem scribbleDest_srcLen : (scribbleDest s).srcLen = s.srcLen := rfl
@[simp] theorem scribbleDest_dstAddr : (scribbleDest s).dstAddr = s.dstAddr := rfl
@[simp] theorem scribbleDest_dstCap : (scribbleDest s).dstCap = s.dstCap := rfl
@[simp] theorem scribbleDest_resultLen : (scribbleDest s).resultLen = s.resultLen := rfl
@[simp] theorem scribbleDest_resultAux : (scribbleDest s).resultAux = s.resultAux := rfl
@[simp] theorem scribbleDest_tblSel : (scribbleDest s).tblSel = s.tblSel := rfl
@[simp] theorem scribbleDest_tblIdx : (scribbleDest s).tblIdx = s.tblIdx := rfl
@[simp] theorem scribbleDest_ft : (scribbleDest s).ft = s.ft := rfl
@[simp] theorem scribbleDest_nodes : (scribbleDest s).nodes = s.nodes := rfl
@[simp] theorem scribbleDest_ct : (scribbleDest s).ct = s.ct := rfl
@[simp] theorem scribbleDest_powerOn : (scribbleDest s).powerOn = s.powerOn := rfl
@[simp] theorem scribbleDest_draws : (scribbleDest s).draws = s.draws + 1 := rfl
@[simp] theorem scribbleDest_hostOps : (scribbleDest s).hostOps = s.hostOps := rfl
@[simp] theorem scribbleDest_hostReads : (scribbleDest s).hostReads = s.hostReads := rfl
@[simp] theorem scribbleDest_schedule : (scribbleDest s).schedule = s.schedule := rfl

/-! ### giveHost -/

@[simp] theorem giveHost_cfgMaxDistinct (vs : List Word) : (giveHost vs s).cfgMaxDistinct = s.cfgMaxDistinct := rfl
@[simp] theorem giveHost_cfgBufSize (vs : List Word) : (giveHost vs s).cfgBufSize = s.cfgBufSize := rfl
@[simp] theorem giveHost_phase (vs : List Word) : (giveHost vs s).phase = s.phase := rfl
@[simp] theorem giveHost_curOp (vs : List Word) : (giveHost vs s).curOp = s.curOp := rfl
@[simp] theorem giveHost_irqEn (vs : List Word) : (giveHost vs s).irqEn = s.irqEn := rfl
@[simp] theorem giveHost_done (vs : List Word) : (giveHost vs s).done = s.done := rfl
@[simp] theorem giveHost_dropped (vs : List Word) : (giveHost vs s).dropped = s.dropped := rfl
@[simp] theorem giveHost_errCode (vs : List Word) : (giveHost vs s).errCode = s.errCode := rfl
@[simp] theorem giveHost_errSub (vs : List Word) : (giveHost vs s).errSub = s.errSub := rfl
@[simp] theorem giveHost_errInfo (vs : List Word) : (giveHost vs s).errInfo = s.errInfo := rfl
@[simp] theorem giveHost_srcAddr (vs : List Word) : (giveHost vs s).srcAddr = s.srcAddr := rfl
@[simp] theorem giveHost_srcLen (vs : List Word) : (giveHost vs s).srcLen = s.srcLen := rfl
@[simp] theorem giveHost_dstAddr (vs : List Word) : (giveHost vs s).dstAddr = s.dstAddr := rfl
@[simp] theorem giveHost_dstCap (vs : List Word) : (giveHost vs s).dstCap = s.dstCap := rfl
@[simp] theorem giveHost_resultLen (vs : List Word) : (giveHost vs s).resultLen = s.resultLen := rfl
@[simp] theorem giveHost_resultAux (vs : List Word) : (giveHost vs s).resultAux = s.resultAux := rfl
@[simp] theorem giveHost_tblSel (vs : List Word) : (giveHost vs s).tblSel = s.tblSel := rfl
@[simp] theorem giveHost_tblIdx (vs : List Word) : (giveHost vs s).tblIdx = s.tblIdx := rfl
@[simp] theorem giveHost_ft (vs : List Word) : (giveHost vs s).ft = s.ft := rfl
@[simp] theorem giveHost_nodes (vs : List Word) : (giveHost vs s).nodes = s.nodes := rfl
@[simp] theorem giveHost_ct (vs : List Word) : (giveHost vs s).ct = s.ct := rfl
@[simp] theorem giveHost_buf (vs : List Word) : (giveHost vs s).buf = s.buf := rfl
@[simp] theorem giveHost_powerOn (vs : List Word) : (giveHost vs s).powerOn = s.powerOn := rfl
@[simp] theorem giveHost_draws (vs : List Word) : (giveHost vs s).draws = s.draws := rfl
@[simp] theorem giveHost_hostOps (vs : List Word) : (giveHost vs s).hostOps = s.hostOps := rfl
@[simp] theorem giveHost_hostReads (vs : List Word) : (giveHost vs s).hostReads = s.hostReads ++ vs := rfl
@[simp] theorem giveHost_schedule (vs : List Word) : (giveHost vs s).schedule = s.schedule := rfl

/-! ### csrRead -/

@[simp] theorem csrRead_cfgMaxDistinct (w : AccessWidth) (off : BitVec 8) : (csrRead w off s).cfgMaxDistinct = s.cfgMaxDistinct := rfl
@[simp] theorem csrRead_cfgBufSize (w : AccessWidth) (off : BitVec 8) : (csrRead w off s).cfgBufSize = s.cfgBufSize := rfl
@[simp] theorem csrRead_phase (w : AccessWidth) (off : BitVec 8) : (csrRead w off s).phase = s.phase := rfl
@[simp] theorem csrRead_curOp (w : AccessWidth) (off : BitVec 8) : (csrRead w off s).curOp = s.curOp := rfl
@[simp] theorem csrRead_irqEn (w : AccessWidth) (off : BitVec 8) : (csrRead w off s).irqEn = s.irqEn := rfl
@[simp] theorem csrRead_done (w : AccessWidth) (off : BitVec 8) : (csrRead w off s).done = s.done := rfl
@[simp] theorem csrRead_dropped (w : AccessWidth) (off : BitVec 8) : (csrRead w off s).dropped = s.dropped := rfl
@[simp] theorem csrRead_errCode (w : AccessWidth) (off : BitVec 8) : (csrRead w off s).errCode = s.errCode := rfl
@[simp] theorem csrRead_errSub (w : AccessWidth) (off : BitVec 8) : (csrRead w off s).errSub = s.errSub := rfl
@[simp] theorem csrRead_errInfo (w : AccessWidth) (off : BitVec 8) : (csrRead w off s).errInfo = s.errInfo := rfl
@[simp] theorem csrRead_srcAddr (w : AccessWidth) (off : BitVec 8) : (csrRead w off s).srcAddr = s.srcAddr := rfl
@[simp] theorem csrRead_srcLen (w : AccessWidth) (off : BitVec 8) : (csrRead w off s).srcLen = s.srcLen := rfl
@[simp] theorem csrRead_dstAddr (w : AccessWidth) (off : BitVec 8) : (csrRead w off s).dstAddr = s.dstAddr := rfl
@[simp] theorem csrRead_dstCap (w : AccessWidth) (off : BitVec 8) : (csrRead w off s).dstCap = s.dstCap := rfl
@[simp] theorem csrRead_resultLen (w : AccessWidth) (off : BitVec 8) : (csrRead w off s).resultLen = s.resultLen := rfl
@[simp] theorem csrRead_resultAux (w : AccessWidth) (off : BitVec 8) : (csrRead w off s).resultAux = s.resultAux := rfl
@[simp] theorem csrRead_tblSel (w : AccessWidth) (off : BitVec 8) : (csrRead w off s).tblSel = s.tblSel := rfl
@[simp] theorem csrRead_tblIdx (w : AccessWidth) (off : BitVec 8) : (csrRead w off s).tblIdx = s.tblIdx := rfl
@[simp] theorem csrRead_ft (w : AccessWidth) (off : BitVec 8) : (csrRead w off s).ft = s.ft := rfl
@[simp] theorem csrRead_nodes (w : AccessWidth) (off : BitVec 8) : (csrRead w off s).nodes = s.nodes := rfl
@[simp] theorem csrRead_ct (w : AccessWidth) (off : BitVec 8) : (csrRead w off s).ct = s.ct := rfl
@[simp] theorem csrRead_buf (w : AccessWidth) (off : BitVec 8) : (csrRead w off s).buf = s.buf := rfl
@[simp] theorem csrRead_powerOn (w : AccessWidth) (off : BitVec 8) : (csrRead w off s).powerOn = s.powerOn := rfl
@[simp] theorem csrRead_draws (w : AccessWidth) (off : BitVec 8) : (csrRead w off s).draws = s.draws + csrReadDraws s w off := rfl
@[simp] theorem csrRead_hostOps (w : AccessWidth) (off : BitVec 8) : (csrRead w off s).hostOps = s.hostOps := rfl
@[simp] theorem csrRead_hostReads (w : AccessWidth) (off : BitVec 8) : (csrRead w off s).hostReads = s.hostReads ++ csrReadWords s w off := rfl
@[simp] theorem csrRead_schedule (w : AccessWidth) (off : BitVec 8) : (csrRead w off s).schedule = s.schedule := rfl

/-! ### irqRead -/

@[simp] theorem irqRead_cfgMaxDistinct : (irqRead s).cfgMaxDistinct = s.cfgMaxDistinct := rfl
@[simp] theorem irqRead_cfgBufSize : (irqRead s).cfgBufSize = s.cfgBufSize := rfl
@[simp] theorem irqRead_phase : (irqRead s).phase = s.phase := rfl
@[simp] theorem irqRead_curOp : (irqRead s).curOp = s.curOp := rfl
@[simp] theorem irqRead_irqEn : (irqRead s).irqEn = s.irqEn := rfl
@[simp] theorem irqRead_done : (irqRead s).done = s.done := rfl
@[simp] theorem irqRead_dropped : (irqRead s).dropped = s.dropped := rfl
@[simp] theorem irqRead_errCode : (irqRead s).errCode = s.errCode := rfl
@[simp] theorem irqRead_errSub : (irqRead s).errSub = s.errSub := rfl
@[simp] theorem irqRead_errInfo : (irqRead s).errInfo = s.errInfo := rfl
@[simp] theorem irqRead_srcAddr : (irqRead s).srcAddr = s.srcAddr := rfl
@[simp] theorem irqRead_srcLen : (irqRead s).srcLen = s.srcLen := rfl
@[simp] theorem irqRead_dstAddr : (irqRead s).dstAddr = s.dstAddr := rfl
@[simp] theorem irqRead_dstCap : (irqRead s).dstCap = s.dstCap := rfl
@[simp] theorem irqRead_resultLen : (irqRead s).resultLen = s.resultLen := rfl
@[simp] theorem irqRead_resultAux : (irqRead s).resultAux = s.resultAux := rfl
@[simp] theorem irqRead_tblSel : (irqRead s).tblSel = s.tblSel := rfl
@[simp] theorem irqRead_tblIdx : (irqRead s).tblIdx = s.tblIdx := rfl
@[simp] theorem irqRead_ft : (irqRead s).ft = s.ft := rfl
@[simp] theorem irqRead_nodes : (irqRead s).nodes = s.nodes := rfl
@[simp] theorem irqRead_ct : (irqRead s).ct = s.ct := rfl
@[simp] theorem irqRead_buf : (irqRead s).buf = s.buf := rfl
@[simp] theorem irqRead_powerOn : (irqRead s).powerOn = s.powerOn := rfl
@[simp] theorem irqRead_draws : (irqRead s).draws = s.draws := rfl
@[simp] theorem irqRead_hostOps : (irqRead s).hostOps = s.hostOps := rfl
@[simp] theorem irqRead_hostReads : (irqRead s).hostReads = s.hostReads ++ [bit (irq s) 0] := rfl
@[simp] theorem irqRead_schedule : (irqRead s).schedule = s.schedule := rfl

/-! ### dropWrite -/

@[simp] theorem dropWrite_cfgMaxDistinct : (dropWrite s).cfgMaxDistinct = s.cfgMaxDistinct := rfl
@[simp] theorem dropWrite_cfgBufSize : (dropWrite s).cfgBufSize = s.cfgBufSize := rfl
@[simp] theorem dropWrite_phase : (dropWrite s).phase = s.phase := rfl
@[simp] theorem dropWrite_curOp : (dropWrite s).curOp = s.curOp := rfl
@[simp] theorem dropWrite_irqEn : (dropWrite s).irqEn = s.irqEn := rfl
@[simp] theorem dropWrite_done : (dropWrite s).done = s.done := rfl
@[simp] theorem dropWrite_dropped : (dropWrite s).dropped = true := rfl
@[simp] theorem dropWrite_errCode : (dropWrite s).errCode = s.errCode := rfl
@[simp] theorem dropWrite_errSub : (dropWrite s).errSub = s.errSub := rfl
@[simp] theorem dropWrite_errInfo : (dropWrite s).errInfo = s.errInfo := rfl
@[simp] theorem dropWrite_srcAddr : (dropWrite s).srcAddr = s.srcAddr := rfl
@[simp] theorem dropWrite_srcLen : (dropWrite s).srcLen = s.srcLen := rfl
@[simp] theorem dropWrite_dstAddr : (dropWrite s).dstAddr = s.dstAddr := rfl
@[simp] theorem dropWrite_dstCap : (dropWrite s).dstCap = s.dstCap := rfl
@[simp] theorem dropWrite_resultLen : (dropWrite s).resultLen = s.resultLen := rfl
@[simp] theorem dropWrite_resultAux : (dropWrite s).resultAux = s.resultAux := rfl
@[simp] theorem dropWrite_tblSel : (dropWrite s).tblSel = s.tblSel := rfl
@[simp] theorem dropWrite_tblIdx : (dropWrite s).tblIdx = s.tblIdx := rfl
@[simp] theorem dropWrite_ft : (dropWrite s).ft = s.ft := rfl
@[simp] theorem dropWrite_nodes : (dropWrite s).nodes = s.nodes := rfl
@[simp] theorem dropWrite_ct : (dropWrite s).ct = s.ct := rfl
@[simp] theorem dropWrite_buf : (dropWrite s).buf = s.buf := rfl
@[simp] theorem dropWrite_powerOn : (dropWrite s).powerOn = s.powerOn := rfl
@[simp] theorem dropWrite_draws : (dropWrite s).draws = s.draws := rfl
@[simp] theorem dropWrite_hostOps : (dropWrite s).hostOps = s.hostOps := rfl
@[simp] theorem dropWrite_hostReads : (dropWrite s).hostReads = s.hostReads := rfl
@[simp] theorem dropWrite_schedule : (dropWrite s).schedule = s.schedule := rfl

/-! ### statusW1C -/

@[simp] theorem statusW1C_cfgMaxDistinct (v : Word) : (statusW1C v s).cfgMaxDistinct = s.cfgMaxDistinct := rfl
@[simp] theorem statusW1C_cfgBufSize (v : Word) : (statusW1C v s).cfgBufSize = s.cfgBufSize := rfl
@[simp] theorem statusW1C_phase (v : Word) : (statusW1C v s).phase = s.phase := rfl
@[simp] theorem statusW1C_curOp (v : Word) : (statusW1C v s).curOp = s.curOp := rfl
@[simp] theorem statusW1C_irqEn (v : Word) : (statusW1C v s).irqEn = s.irqEn := rfl
@[simp] theorem statusW1C_done (v : Word) : (statusW1C v s).done = if v.getLsbD 1 then false else s.done := rfl
@[simp] theorem statusW1C_dropped (v : Word) : (statusW1C v s).dropped = if v.getLsbD 6 then false else s.dropped := rfl
@[simp] theorem statusW1C_errCode (v : Word) : (statusW1C v s).errCode = s.errCode := rfl
@[simp] theorem statusW1C_errSub (v : Word) : (statusW1C v s).errSub = s.errSub := rfl
@[simp] theorem statusW1C_errInfo (v : Word) : (statusW1C v s).errInfo = s.errInfo := rfl
@[simp] theorem statusW1C_srcAddr (v : Word) : (statusW1C v s).srcAddr = s.srcAddr := rfl
@[simp] theorem statusW1C_srcLen (v : Word) : (statusW1C v s).srcLen = s.srcLen := rfl
@[simp] theorem statusW1C_dstAddr (v : Word) : (statusW1C v s).dstAddr = s.dstAddr := rfl
@[simp] theorem statusW1C_dstCap (v : Word) : (statusW1C v s).dstCap = s.dstCap := rfl
@[simp] theorem statusW1C_resultLen (v : Word) : (statusW1C v s).resultLen = s.resultLen := rfl
@[simp] theorem statusW1C_resultAux (v : Word) : (statusW1C v s).resultAux = s.resultAux := rfl
@[simp] theorem statusW1C_tblSel (v : Word) : (statusW1C v s).tblSel = s.tblSel := rfl
@[simp] theorem statusW1C_tblIdx (v : Word) : (statusW1C v s).tblIdx = s.tblIdx := rfl
@[simp] theorem statusW1C_ft (v : Word) : (statusW1C v s).ft = s.ft := rfl
@[simp] theorem statusW1C_nodes (v : Word) : (statusW1C v s).nodes = s.nodes := rfl
@[simp] theorem statusW1C_ct (v : Word) : (statusW1C v s).ct = s.ct := rfl
@[simp] theorem statusW1C_buf (v : Word) : (statusW1C v s).buf = s.buf := rfl
@[simp] theorem statusW1C_powerOn (v : Word) : (statusW1C v s).powerOn = s.powerOn := rfl
@[simp] theorem statusW1C_draws (v : Word) : (statusW1C v s).draws = s.draws := rfl
@[simp] theorem statusW1C_hostOps (v : Word) : (statusW1C v s).hostOps = s.hostOps := rfl
@[simp] theorem statusW1C_hostReads (v : Word) : (statusW1C v s).hostReads = s.hostReads := rfl
@[simp] theorem statusW1C_schedule (v : Word) : (statusW1C v s).schedule = s.schedule := rfl

/-! ### placeCommand -/

@[simp] theorem placeCommand_cfgMaxDistinct (w : Word) : (placeCommand w s).cfgMaxDistinct = s.cfgMaxDistinct := rfl
@[simp] theorem placeCommand_cfgBufSize (w : Word) : (placeCommand w s).cfgBufSize = s.cfgBufSize := rfl
@[simp] theorem placeCommand_phase (w : Word) : (placeCommand w s).phase = .busy := rfl
@[simp] theorem placeCommand_curOp (w : Word) : (placeCommand w s).curOp = w := rfl
@[simp] theorem placeCommand_irqEn (w : Word) : (placeCommand w s).irqEn = s.irqEn := rfl
@[simp] theorem placeCommand_done (w : Word) : (placeCommand w s).done = false := rfl
@[simp] theorem placeCommand_dropped (w : Word) : (placeCommand w s).dropped = s.dropped := rfl
@[simp] theorem placeCommand_errCode (w : Word) : (placeCommand w s).errCode = 0 := rfl
@[simp] theorem placeCommand_errSub (w : Word) : (placeCommand w s).errSub = 0 := rfl
@[simp] theorem placeCommand_errInfo (w : Word) : (placeCommand w s).errInfo = 0 := rfl
@[simp] theorem placeCommand_srcAddr (w : Word) : (placeCommand w s).srcAddr = s.srcAddr := rfl
@[simp] theorem placeCommand_srcLen (w : Word) : (placeCommand w s).srcLen = s.srcLen := rfl
@[simp] theorem placeCommand_dstAddr (w : Word) : (placeCommand w s).dstAddr = s.dstAddr := rfl
@[simp] theorem placeCommand_dstCap (w : Word) : (placeCommand w s).dstCap = s.dstCap := rfl
@[simp] theorem placeCommand_resultLen (w : Word) : (placeCommand w s).resultLen = 0 := rfl
@[simp] theorem placeCommand_resultAux (w : Word) : (placeCommand w s).resultAux = 0 := rfl
@[simp] theorem placeCommand_tblSel (w : Word) : (placeCommand w s).tblSel = s.tblSel := rfl
@[simp] theorem placeCommand_tblIdx (w : Word) : (placeCommand w s).tblIdx = s.tblIdx := rfl
@[simp] theorem placeCommand_ft (w : Word) : (placeCommand w s).ft = s.ft := rfl
@[simp] theorem placeCommand_nodes (w : Word) : (placeCommand w s).nodes = s.nodes := rfl
@[simp] theorem placeCommand_ct (w : Word) : (placeCommand w s).ct = s.ct := rfl
@[simp] theorem placeCommand_buf (w : Word) : (placeCommand w s).buf = s.buf := rfl
@[simp] theorem placeCommand_powerOn (w : Word) : (placeCommand w s).powerOn = s.powerOn := rfl
@[simp] theorem placeCommand_draws (w : Word) : (placeCommand w s).draws = s.draws := rfl
@[simp] theorem placeCommand_hostOps (w : Word) : (placeCommand w s).hostOps = s.hostOps := rfl
@[simp] theorem placeCommand_hostReads (w : Word) : (placeCommand w s).hostReads = s.hostReads := rfl
@[simp] theorem placeCommand_schedule (w : Word) : (placeCommand w s).schedule = .core :: s.schedule := rfl

/-! ### useSchedule -/

@[simp] theorem useSchedule_cfgMaxDistinct : (useSchedule s).cfgMaxDistinct = s.cfgMaxDistinct := by unfold useSchedule; split <;> rfl
@[simp] theorem useSchedule_cfgBufSize : (useSchedule s).cfgBufSize = s.cfgBufSize := by unfold useSchedule; split <;> rfl
@[simp] theorem useSchedule_phase : (useSchedule s).phase = s.phase := by unfold useSchedule; split <;> rfl
@[simp] theorem useSchedule_curOp : (useSchedule s).curOp = s.curOp := by unfold useSchedule; split <;> rfl
@[simp] theorem useSchedule_irqEn : (useSchedule s).irqEn = s.irqEn := by unfold useSchedule; split <;> rfl
@[simp] theorem useSchedule_done : (useSchedule s).done = s.done := by unfold useSchedule; split <;> rfl
@[simp] theorem useSchedule_dropped : (useSchedule s).dropped = s.dropped := by unfold useSchedule; split <;> rfl
@[simp] theorem useSchedule_errCode : (useSchedule s).errCode = s.errCode := by unfold useSchedule; split <;> rfl
@[simp] theorem useSchedule_errSub : (useSchedule s).errSub = s.errSub := by unfold useSchedule; split <;> rfl
@[simp] theorem useSchedule_errInfo : (useSchedule s).errInfo = s.errInfo := by unfold useSchedule; split <;> rfl
@[simp] theorem useSchedule_srcAddr : (useSchedule s).srcAddr = s.srcAddr := by unfold useSchedule; split <;> rfl
@[simp] theorem useSchedule_srcLen : (useSchedule s).srcLen = s.srcLen := by unfold useSchedule; split <;> rfl
@[simp] theorem useSchedule_dstAddr : (useSchedule s).dstAddr = s.dstAddr := by unfold useSchedule; split <;> rfl
@[simp] theorem useSchedule_dstCap : (useSchedule s).dstCap = s.dstCap := by unfold useSchedule; split <;> rfl
@[simp] theorem useSchedule_resultLen : (useSchedule s).resultLen = s.resultLen := by unfold useSchedule; split <;> rfl
@[simp] theorem useSchedule_resultAux : (useSchedule s).resultAux = s.resultAux := by unfold useSchedule; split <;> rfl
@[simp] theorem useSchedule_tblSel : (useSchedule s).tblSel = s.tblSel := by unfold useSchedule; split <;> rfl
@[simp] theorem useSchedule_tblIdx : (useSchedule s).tblIdx = s.tblIdx := by unfold useSchedule; split <;> rfl
@[simp] theorem useSchedule_ft : (useSchedule s).ft = s.ft := by unfold useSchedule; split <;> rfl
@[simp] theorem useSchedule_nodes : (useSchedule s).nodes = s.nodes := by unfold useSchedule; split <;> rfl
@[simp] theorem useSchedule_ct : (useSchedule s).ct = s.ct := by unfold useSchedule; split <;> rfl
@[simp] theorem useSchedule_buf : (useSchedule s).buf = s.buf := by unfold useSchedule; split <;> rfl
@[simp] theorem useSchedule_powerOn : (useSchedule s).powerOn = s.powerOn := by unfold useSchedule; split <;> rfl
@[simp] theorem useSchedule_draws : (useSchedule s).draws = s.draws := by unfold useSchedule; split <;> rfl
@[simp] theorem useSchedule_hostOps : (useSchedule s).hostOps = s.hostOps := by unfold useSchedule; split <;> rfl
@[simp] theorem useSchedule_hostReads : (useSchedule s).hostReads = s.hostReads := by unfold useSchedule; split <;> rfl
@[simp] theorem useSchedule_busy (h : s.phase = .busy) : useSchedule s = { s with schedule := s.schedule.tail } := by
  simp [useSchedule, h]
@[simp] theorem useSchedule_idle (h : s.phase = .idle) : useSchedule s = s := by simp [useSchedule, h]

/-! ### waitOnce and waitIrqOnce -/

@[simp] theorem waitOnce_cfgMaxDistinct : (waitOnce s).cfgMaxDistinct = s.cfgMaxDistinct := by unfold waitOnce; split <;> rfl
@[simp] theorem waitOnce_cfgBufSize : (waitOnce s).cfgBufSize = s.cfgBufSize := by unfold waitOnce; split <;> rfl
@[simp] theorem waitOnce_phase : (waitOnce s).phase = s.phase := by unfold waitOnce; split <;> rfl
@[simp] theorem waitOnce_curOp : (waitOnce s).curOp = s.curOp := by unfold waitOnce; split <;> rfl
@[simp] theorem waitOnce_irqEn : (waitOnce s).irqEn = s.irqEn := by unfold waitOnce; split <;> rfl
@[simp] theorem waitOnce_done : (waitOnce s).done = s.done := by unfold waitOnce; split <;> rfl
@[simp] theorem waitOnce_dropped : (waitOnce s).dropped = s.dropped := by unfold waitOnce; split <;> rfl
@[simp] theorem waitOnce_errCode : (waitOnce s).errCode = s.errCode := by unfold waitOnce; split <;> rfl
@[simp] theorem waitOnce_errSub : (waitOnce s).errSub = s.errSub := by unfold waitOnce; split <;> rfl
@[simp] theorem waitOnce_errInfo : (waitOnce s).errInfo = s.errInfo := by unfold waitOnce; split <;> rfl
@[simp] theorem waitOnce_srcAddr : (waitOnce s).srcAddr = s.srcAddr := by unfold waitOnce; split <;> rfl
@[simp] theorem waitOnce_srcLen : (waitOnce s).srcLen = s.srcLen := by unfold waitOnce; split <;> rfl
@[simp] theorem waitOnce_dstAddr : (waitOnce s).dstAddr = s.dstAddr := by unfold waitOnce; split <;> rfl
@[simp] theorem waitOnce_dstCap : (waitOnce s).dstCap = s.dstCap := by unfold waitOnce; split <;> rfl
@[simp] theorem waitOnce_resultLen : (waitOnce s).resultLen = s.resultLen := by unfold waitOnce; split <;> rfl
@[simp] theorem waitOnce_resultAux : (waitOnce s).resultAux = s.resultAux := by unfold waitOnce; split <;> rfl
@[simp] theorem waitOnce_tblSel : (waitOnce s).tblSel = s.tblSel := by unfold waitOnce; split <;> rfl
@[simp] theorem waitOnce_tblIdx : (waitOnce s).tblIdx = s.tblIdx := by unfold waitOnce; split <;> rfl
@[simp] theorem waitOnce_ft : (waitOnce s).ft = s.ft := by unfold waitOnce; split <;> rfl
@[simp] theorem waitOnce_nodes : (waitOnce s).nodes = s.nodes := by unfold waitOnce; split <;> rfl
@[simp] theorem waitOnce_ct : (waitOnce s).ct = s.ct := by unfold waitOnce; split <;> rfl
@[simp] theorem waitOnce_buf : (waitOnce s).buf = s.buf := by unfold waitOnce; split <;> rfl
@[simp] theorem waitOnce_powerOn : (waitOnce s).powerOn = s.powerOn := by unfold waitOnce; split <;> rfl
@[simp] theorem waitOnce_schedule : (waitOnce s).schedule = s.schedule := by unfold waitOnce; split <;> rfl
@[simp] theorem waitIrqOnce_cfgMaxDistinct : (waitIrqOnce s).cfgMaxDistinct = s.cfgMaxDistinct := by unfold waitIrqOnce; split <;> rfl
@[simp] theorem waitIrqOnce_cfgBufSize : (waitIrqOnce s).cfgBufSize = s.cfgBufSize := by unfold waitIrqOnce; split <;> rfl
@[simp] theorem waitIrqOnce_phase : (waitIrqOnce s).phase = s.phase := by unfold waitIrqOnce; split <;> rfl
@[simp] theorem waitIrqOnce_curOp : (waitIrqOnce s).curOp = s.curOp := by unfold waitIrqOnce; split <;> rfl
@[simp] theorem waitIrqOnce_irqEn : (waitIrqOnce s).irqEn = s.irqEn := by unfold waitIrqOnce; split <;> rfl
@[simp] theorem waitIrqOnce_done : (waitIrqOnce s).done = s.done := by unfold waitIrqOnce; split <;> rfl
@[simp] theorem waitIrqOnce_dropped : (waitIrqOnce s).dropped = s.dropped := by unfold waitIrqOnce; split <;> rfl
@[simp] theorem waitIrqOnce_errCode : (waitIrqOnce s).errCode = s.errCode := by unfold waitIrqOnce; split <;> rfl
@[simp] theorem waitIrqOnce_errSub : (waitIrqOnce s).errSub = s.errSub := by unfold waitIrqOnce; split <;> rfl
@[simp] theorem waitIrqOnce_errInfo : (waitIrqOnce s).errInfo = s.errInfo := by unfold waitIrqOnce; split <;> rfl
@[simp] theorem waitIrqOnce_srcAddr : (waitIrqOnce s).srcAddr = s.srcAddr := by unfold waitIrqOnce; split <;> rfl
@[simp] theorem waitIrqOnce_srcLen : (waitIrqOnce s).srcLen = s.srcLen := by unfold waitIrqOnce; split <;> rfl
@[simp] theorem waitIrqOnce_dstAddr : (waitIrqOnce s).dstAddr = s.dstAddr := by unfold waitIrqOnce; split <;> rfl
@[simp] theorem waitIrqOnce_dstCap : (waitIrqOnce s).dstCap = s.dstCap := by unfold waitIrqOnce; split <;> rfl
@[simp] theorem waitIrqOnce_resultLen : (waitIrqOnce s).resultLen = s.resultLen := by unfold waitIrqOnce; split <;> rfl
@[simp] theorem waitIrqOnce_resultAux : (waitIrqOnce s).resultAux = s.resultAux := by unfold waitIrqOnce; split <;> rfl
@[simp] theorem waitIrqOnce_tblSel : (waitIrqOnce s).tblSel = s.tblSel := by unfold waitIrqOnce; split <;> rfl
@[simp] theorem waitIrqOnce_tblIdx : (waitIrqOnce s).tblIdx = s.tblIdx := by unfold waitIrqOnce; split <;> rfl
@[simp] theorem waitIrqOnce_ft : (waitIrqOnce s).ft = s.ft := by unfold waitIrqOnce; split <;> rfl
@[simp] theorem waitIrqOnce_nodes : (waitIrqOnce s).nodes = s.nodes := by unfold waitIrqOnce; split <;> rfl
@[simp] theorem waitIrqOnce_ct : (waitIrqOnce s).ct = s.ct := by unfold waitIrqOnce; split <;> rfl
@[simp] theorem waitIrqOnce_buf : (waitIrqOnce s).buf = s.buf := by unfold waitIrqOnce; split <;> rfl
@[simp] theorem waitIrqOnce_powerOn : (waitIrqOnce s).powerOn = s.powerOn := by unfold waitIrqOnce; split <;> rfl
@[simp] theorem waitIrqOnce_draws : (waitIrqOnce s).draws = s.draws := by unfold waitIrqOnce; split <;> rfl
@[simp] theorem waitIrqOnce_hostReads : (waitIrqOnce s).hostReads = s.hostReads := by unfold waitIrqOnce; split <;> rfl
@[simp] theorem waitIrqOnce_schedule : (waitIrqOnce s).schedule = s.schedule := by unfold waitIrqOnce; split <;> rfl

end Sys2Proof.Machine
end

