-- ==== Sys2Proof/Laws/Memory.lean ====
section
/-! SUPPORT. The laws of BUF: a read after a write, and the canonical form every memory operation keeps. -/

namespace Sys2Proof.Machine

/-! ### One byte -/

theorem Memory.get?_write_same (m : Memory) (a : Nat) (v : Byte) : Memory.get? (Memory.write m a v) a = some v := by
  induction m with
  | nil => simp [Memory.write, Memory.get?]
  | cons c m ih =>
    obtain ⟨b, w⟩ := c
    rcases Nat.lt_trichotomy a b with h | h | h
    · simp [Memory.write, Memory.get?, h]
    · simp [Memory.write, Memory.get?, h]
    · have h1 : ¬ a < b := by omega
      have h2 : a ≠ b := by omega
      simp [Memory.write, Memory.get?, h1, h2, ih]

theorem Memory.get?_write_other (m : Memory) (a b : Nat) (v : Byte) (h : b ≠ a) :
    Memory.get? (Memory.write m a v) b = Memory.get? m b := by
  induction m with
  | nil => simp [Memory.write, Memory.get?, h]
  | cons c m ih =>
    obtain ⟨x, w⟩ := c
    unfold Memory.write
    split
    · simp [Memory.get?, h]
    · split
      · subst_vars
        simp [Memory.get?, h]
      · simp [Memory.get?, ih]

/-- A rising memory rises from every smaller bound. -/
theorem Memory.risesFrom_mono {lo lo' : Nat} (h : lo' ≤ lo) :
    ∀ {m : Memory}, Memory.risesFrom lo m = true → Memory.risesFrom lo' m = true
  | [], _ => rfl
  | (a, _) :: _, hm => by
    simp only [Memory.risesFrom, Bool.and_eq_true, decide_eq_true_eq] at hm ⊢
    exact ⟨by omega, hm.2⟩

theorem Memory.risesFrom_write (m : Memory) (lo a : Nat) (v : Byte) (hlo : lo ≤ a)
    (hm : Memory.risesFrom lo m = true) : Memory.risesFrom lo (Memory.write m a v) = true := by
  induction m generalizing lo with
  | nil => simp [Memory.write, Memory.risesFrom, hlo]
  | cons c m ih =>
    obtain ⟨b, w⟩ := c
    simp only [Memory.risesFrom, Bool.and_eq_true, decide_eq_true_eq] at hm
    unfold Memory.write
    split
    · rename_i hab
      simp only [Memory.risesFrom, Bool.and_eq_true, decide_eq_true_eq]
      exact ⟨hlo, by omega, hm.2⟩
    · split
      · subst_vars
        simp only [Memory.risesFrom, Bool.and_eq_true, decide_eq_true_eq]
        exact hm
      · simp only [Memory.risesFrom, Bool.and_eq_true, decide_eq_true_eq]
        exact ⟨hm.1, ih (b + 1) (by omega) hm.2⟩

/-- A one-byte write keeps the canonical form. -/
theorem Memory.wf_write (m : Memory) (a : Nat) (v : Byte) (hm : Memory.wf m = true) :
    Memory.wf (Memory.write m a v) = true :=
  Memory.risesFrom_write m 0 a v (Nat.zero_le a) hm

theorem Memory.below_write (m : Memory) (n a : Nat) (v : Byte) (ha : a < n) (hm : Memory.below n m = true) :
    Memory.below n (Memory.write m a v) = true := by
  induction m with
  | nil => simp [Memory.write, Memory.below, ha]
  | cons c m ih =>
    obtain ⟨b, w⟩ := c
    simp only [Memory.below, Bool.and_eq_true, decide_eq_true_eq] at hm
    unfold Memory.write
    split
    · simp [Memory.below, ha, hm.1, hm.2]
    · split
      · simp [Memory.below, ha, hm.2]
      · simp [Memory.below, hm.1, ih hm.2]

/-! ### A list of bytes -/

/-- MemWrite keeps the canonical form. -/
theorem Memory.wf_writeList (m : Memory) (a : Nat) (bs : List Byte) (hm : Memory.wf m = true) :
    Memory.wf (Memory.writeList m a bs) = true := by
  induction bs generalizing m a with
  | nil => exact hm
  | cons b bs ih => exact ih _ _ (Memory.wf_write m a b hm)

theorem Memory.below_writeList (m : Memory) (n a : Nat) (bs : List Byte) (ha : a + bs.length ≤ n)
    (hm : Memory.below n m = true) : Memory.below n (Memory.writeList m a bs) = true := by
  induction bs generalizing m a with
  | nil => exact hm
  | cons b bs ih =>
    simp only [List.length_cons] at ha
    exact ih _ _ (by omega) (Memory.below_write m n a b (by omega) hm)

/-- MemWrite leaves every byte outside its range alone. -/
theorem Memory.get?_writeList_outside (m : Memory) (a b : Nat) (bs : List Byte)
    (h : b < a ∨ a + bs.length ≤ b) : Memory.get? (Memory.writeList m a bs) b = Memory.get? m b := by
  induction bs generalizing m a with
  | nil => rfl
  | cons c bs ih =>
    simp only [List.length_cons] at h
    rw [Memory.writeList, ih _ _ (by omega), Memory.get?_write_other _ _ _ _ (by omega)]

/-- MemWrite stores its bytes at rising addresses. -/
theorem Memory.get?_writeList_inside (m : Memory) (a i : Nat) (bs : List Byte) (h : i < bs.length) :
    Memory.get? (Memory.writeList m a bs) (a + i) = bs[i]? := by
  induction bs generalizing m a i with
  | nil => simp at h
  | cons c bs ih =>
    cases i with
    | zero =>
      rw [Memory.writeList, Memory.get?_writeList_outside _ _ _ _ (by omega)]
      simp [Memory.get?_write_same]
    | succ i =>
      simp only [List.length_cons] at h
      have := ih (Memory.write m a c) (a + 1) i (by omega)
      rw [Memory.writeList, show a + (i + 1) = a + 1 + i by omega, this]
      simp

/-! ### The reads of a state -/

theorem readByte_memWrite_outside (s : State) (a b : Nat) (bs : List Byte) (h : b < a ∨ a + bs.length ≤ b) :
    readByte (memWrite a bs s) b = readByte s b := by
  simp [readByte, Memory.get?_writeList_outside _ _ _ _ h]

theorem readByte_memWrite_inside (s : State) (a i : Nat) (bs : List Byte) (h : i < bs.length) :
    readByte (memWrite a bs s) (a + i) = bs[i] := by
  simp [readByte, Memory.get?_writeList_inside _ _ _ _ h, h]

@[simp] theorem memRead_length (s : State) (a n : Nat) : (memRead s a n).length = n := by
  induction n generalizing a with
  | zero => rfl
  | succ n ih => simp [memRead, ih]

/-- MemRead looks at the bytes it reads and at nothing else. -/
theorem memRead_congr (s t : State) (a n : Nat) (h : ∀ b, a ≤ b → b < a + n → readByte t b = readByte s b) :
    memRead t a n = memRead s a n := by
  induction n generalizing a with
  | zero => rfl
  | succ n ih =>
    simp only [memRead]
    rw [h a (Nat.le_refl a) (by omega), ih (a + 1) (fun b h1 h2 => h b (by omega) (by omega))]

/-- MemRead of what MemWrite stored. -/
theorem memRead_memWrite (s : State) (a : Nat) (bs : List Byte) : memRead (memWrite a bs s) a bs.length = bs := by
  induction bs generalizing s a with
  | nil => rfl
  | cons c bs ih =>
    have h0 := readByte_memWrite_inside s a 0 (c :: bs) (by simp)
    simp only [Nat.add_zero, List.getElem_cons_zero] at h0
    simp only [List.length_cons, memRead, h0]
    exact congrArg (c :: ·) (ih { s with buf := Memory.write s.buf a c } (a + 1))

@[simp] theorem drawBytes_length (d a n : Nat) : (drawBytes d a n).length = n := by
  induction n generalizing a with
  | zero => rfl
  | succ n ih => simp [drawBytes, ih]

@[simp] theorem scribbleDest_buf (s : State) : (scribbleDest s).buf = Memory.writeList s.buf s.dstAddr.toNat
    (drawBytes s.draws s.dstAddr.toNat (lengthInBuf s s.dstAddr.toNat s.dstCap.toNat)) := rfl

/-- Scribbling keeps the canonical form. -/
theorem wf_scribbleDest (s : State) (h : Memory.wf s.buf = true) : Memory.wf (scribbleDest s).buf = true :=
  Memory.wf_writeList _ _ _ h

/-- Scribbling stays inside BUF. -/
theorem below_scribbleDest (s : State) (h : Memory.below s.cfgBufSize.toNat s.buf = true) :
    Memory.below s.cfgBufSize.toNat (scribbleDest s).buf = true := by
  rcases Nat.lt_or_ge s.cfgBufSize.toNat s.dstAddr.toNat with hd | hd
  · have h0 : lengthInBuf s s.dstAddr.toNat s.dstCap.toNat = 0 := by
      unfold lengthInBuf
      omega
    rw [scribbleDest_buf, h0]
    exact h
  · refine Memory.below_writeList _ _ _ _ ?_ h
    rw [drawBytes_length]
    unfold lengthInBuf
    omega

/-- Scribbling leaves every byte outside the destination region alone. -/
theorem readByte_scribbleDest_outside (s : State) (a : Nat) (h : inDest s a = false) :
    readByte (scribbleDest s) a = readByte s a := by
  have hr : a < s.dstAddr.toNat ∨
      s.dstAddr.toNat + (drawBytes s.draws s.dstAddr.toNat
        (lengthInBuf s s.dstAddr.toNat s.dstCap.toNat)).length ≤ a := by
    simp only [inDest, Bool.and_eq_false_iff, decide_eq_false_iff_not] at h
    rw [drawBytes_length]
    unfold lengthInBuf
    omega
  simp [readByte, Memory.get?_writeList_outside _ _ _ _ hr]

/-- The memory of State.reset is in its canonical form. -/
theorem reset_memory_wf : Memory.wf State.reset.buf = true := rfl

end Sys2Proof.Machine
end

