-- ==== Sys2Proof/Laws/Commands.lean ====
section
/-! SUPPORT. For each check, each command and the step, one lemma that says once everything it can do. -/

namespace Sys2Proof.Machine

/-! ### The range checks (60_exceptions.md R812) -/

theorem checkSrc_ok (s : State) : checkSrc s = .ok () ↔ SrcOk s := by
  unfold checkSrc SrcOk
  split
  · rename_i h
    exact ⟨fun hc => (by cases hc), fun hs => absurd h (by omega)⟩
  · rename_i h
    exact ⟨fun _ => by omega, fun _ => rfl⟩

theorem checkDst_ok (s : State) : checkDst s = .ok () ↔ DstOk s := by
  unfold checkDst DstOk
  split
  · rename_i h
    exact ⟨fun hc => (by cases hc), fun hs => absurd h (by omega)⟩
  · rename_i h
    exact ⟨fun _ => by omega, fun _ => rfl⟩

theorem checkOverlap_ok (s : State) : checkOverlap s = .ok () ↔ RegionsApart s := by
  unfold checkOverlap RegionsApart
  split
  · rename_i h
    exact ⟨fun hc => (by cases hc), fun hs => absurd h (by omega)⟩
  · rename_i h
    exact ⟨fun _ => by omega, fun _ => rfl⟩

/-- All the range checks of ENCODE and DECODE pass. -/
theorem checkRegions_ok (s : State) : checkRegions s = .ok () ↔ SrcOk s ∧ DstOk s ∧ RegionsApart s := by
  rw [← checkSrc_ok, ← checkDst_ok, ← checkOverlap_ok]
  unfold checkRegions
  cases checkSrc s <;> cases checkDst s <;> cases checkOverlap s <;> simp [bind, Except.bind]

/-- The checks pass, or they raise BUFFER_RANGE with the sub-cause of the first that fails. -/
theorem checkRegions_cases (s : State) :
    checkRegions s = .ok () ∨ (checkRegions s = .error (err .bufferRange 1 0) ∧ ¬ SrcOk s)
      ∨ (checkRegions s = .error (err .bufferRange 2 0) ∧ SrcOk s ∧ ¬ DstOk s)
      ∨ (checkRegions s = .error (err .bufferRange 3 0) ∧ SrcOk s ∧ DstOk s ∧ ¬ RegionsApart s) := by
  by_cases h1 : SrcOk s
  · by_cases h2 : DstOk s
    · by_cases h3 : RegionsApart s
      · exact .inl ((checkRegions_ok s).2 ⟨h1, h2, h3⟩)
      · refine .inr (.inr (.inr ⟨?_, h1, h2, h3⟩))
        have e1 := (checkSrc_ok s).2 h1
        have e2 := (checkDst_ok s).2 h2
        have e3 : checkOverlap s = .error (err .bufferRange 3 0) := by
          have := mt (checkOverlap_ok s).1 h3
          unfold checkOverlap at this ⊢
          split <;> simp_all
        simp [checkRegions, e1, e2, e3, bind, Except.bind]
    · refine .inr (.inr (.inl ⟨?_, h1, h2⟩))
      have e1 := (checkSrc_ok s).2 h1
      have e2 : checkDst s = .error (err .bufferRange 2 0) := by
        have := mt (checkDst_ok s).1 h2
        unfold checkDst at this ⊢
        split <;> simp_all
      simp [checkRegions, e1, e2, bind, Except.bind]
  · refine .inr (.inl ⟨?_, h1⟩)
    have e1 : checkSrc s = .error (err .bufferRange 1 0) := by
      have := mt (checkSrc_ok s).1 h1
      unfold checkSrc at this ⊢
      split <;> simp_all
    simp [checkRegions, e1, bind, Except.bind]

/-! ### The commands -/

/-- COUNT fails, or leaves the counted table. -/
theorem execCount_cases {s t : State} (h : exec .count s = .next t) :
    (∃ e, countCommand s = .error e ∧ t = raiseErr (targetsOf .count) e s)
      ∨ ∃ f total, countCommand s = .ok (f, total)
          ∧ t = complete 0 (resultWord total) { s with ft := some f, nodes := none, ct := none } := by
  simp only [exec, execCount] at h
  split at h
  · exact .inl ⟨_, ‹_›, (Host.Outcome.next.inj h).symm⟩
  · exact .inr ⟨_, _, ‹_›, (Host.Outcome.next.inj h).symm⟩

/-- PARSEFT fails, or leaves the parsed table. -/
theorem execParseft_cases {s t : State} (h : exec .parseft s = .next t) :
    (∃ e, parseCommand s = .error e ∧ t = raiseErr (targetsOf .parseft) e s)
      ∨ ∃ p f, parseCommand s = .ok (p, f)
          ∧ t = complete (resultWord (p + 1)) (resultWord f.length)
              { s with ft := some f, nodes := none, ct := none } := by
  simp only [exec, execParseft] at h
  split at h
  · exact .inl ⟨_, ‹_›, (Host.Outcome.next.inj h).symm⟩
  · exact .inr ⟨_, _, ‹_›, (Host.Outcome.next.inj h).symm⟩

/-- BUILD fails, or leaves the tree of FT. -/
theorem execBuild_cases {s t : State} (h : exec .build s = .next t) :
    (∃ e, buildCommand s = .error e ∧ t = raiseErr (targetsOf .build) e s)
      ∨ ∃ f ns, s.ft = some f ∧ buildTree f = .ok ns
          ∧ t = complete 0 (resultWord (2 * f.length - 1)) { s with nodes := some ns, ct := none } := by
  simp only [exec, execBuild] at h
  split at h
  · exact .inl ⟨_, ‹_›, (Host.Outcome.next.inj h).symm⟩
  · rename_i n ns hb
    unfold buildCommand at hb
    split at hb
    · exact nomatch hb
    · rename_i f hf
      split at hb
      · exact nomatch hb
      · rename_i ns' ht
        obtain ⟨rfl, rfl⟩ := Prod.mk.inj (Except.ok.inj hb)
        exact .inr ⟨f, ns', hf, ht, (Host.Outcome.next.inj h).symm⟩

/-- GENCODE fails for want of a tree, or leaves its codes. -/
theorem execGencode_cases {s t : State} (h : exec .gencode s = .next t) :
    (s.nodes = none ∧ t = raiseErr (targetsOf .gencode) (err .sequenceError 2 0) s)
      ∨ ∃ ns, s.nodes = some ns
          ∧ t = complete 0 (resultWord (longestCode (genCodes ns))) { s with ct := some (genCodes ns) } := by
  simp only [exec, execGencode] at h
  split at h
  · exact .inl ⟨‹_›, (Host.Outcome.next.inj h).symm⟩
  · exact .inr ⟨_, ‹_›, (Host.Outcome.next.inj h).symm⟩

/-- ENCODE fails and leaves BUF, or leaves its three tables and stores the artifact. -/
theorem execEncode_cases {s t : State} (h : exec .encode s = .next t) :
    (∃ e, encodeCommand s = .error e ∧ t = raiseErr (targetsOf .encode) e s)
      ∨ ∃ r, encodeCommand s = .ok r
          ∧ t = complete (resultWord r.size) (resultWord r.bitlen)
              (memWrite s.dstAddr.toNat r.bytes { s with ft := some r.ft, nodes := some r.nodes, ct := some r.ct }) := by
  simp only [exec, execEncode] at h
  split at h
  · exact .inl ⟨_, ‹_›, (Host.Outcome.next.inj h).symm⟩
  · exact .inr ⟨_, ‹_›, (Host.Outcome.next.inj h).symm⟩

/-- DECODE fails a range check and leaves BUF, or fails later and leaves its destination unspecified, or leaves two tables
and stores the text. -/
theorem execDecode_cases {s t : State} (h : exec .decode s = .next t) :
    (∃ e, checkRegions s = .error e ∧ t = raiseErr (targetsOf .decode) e s)
      ∨ (∃ e, checkRegions s = .ok () ∧ decodeCommand s = .error e
          ∧ t = raiseErr (targetsOf .decode) e (scribbleDest s))
      ∨ ∃ r, checkRegions s = .ok () ∧ decodeCommand s = .ok r
          ∧ t = complete (resultWord r.bytes.length) (resultWord r.nsym)
              (memWrite s.dstAddr.toNat r.bytes { s with ft := some r.ft, nodes := some r.nodes, ct := none }) := by
  simp only [exec, execDecode, decodeChecked] at h
  split at h
  · exact .inl ⟨_, ‹_›, (Host.Outcome.next.inj h).symm⟩
  · split at h
    · exact .inr (.inl ⟨_, ‹_›, ‹_›, (Host.Outcome.next.inj h).symm⟩)
    · exact .inr (.inr ⟨_, ‹_›, ‹_›, (Host.Outcome.next.inj h).symm⟩)

/-- An encode that succeeds, pass by pass (45_encoder.md R650). -/
theorem encodeText_ok {m cap : Nat} {text : List Byte} {r : EncodeResult} (h : encodeText m cap text = .ok r) :
    (∃ total, countText m text = .ok (r.ft, total)) ∧ buildTree r.ft = .ok r.nodes ∧ r.ct = genCodes r.nodes
      ∧ r.bitlen = bitLength r.ft r.ct ∧ r.bitlen ≤ maxU32 ∧ r.size = artifactSize r.ft r.bitlen ∧ r.size ≤ cap
      ∧ r.bytes = artifact r.ft r.ct r.bitlen text := by
  unfold encodeText at h
  simp only [bind, Except.bind] at h
  split at h
  · exact nomatch h
  · rename_i x hx
    split at h
    · exact nomatch h
    · rename_i ns hns
      split at h
      · exact nomatch h
      · rename_i hb
        split at h
        · exact nomatch h
        · rename_i hc
          obtain rfl := Except.ok.inj h
          simp only at hns hb hc ⊢
          exact ⟨⟨x.2, hx⟩, hns, trivial, trivial, by omega, trivial, by omega, trivial⟩

/-- A decode that succeeds, part by part (46_decoder.md R720). -/
theorem decodeArtifact_ok {m cap : Nat} {art : List Byte} {r : DecodeResult} (h : decodeArtifact m cap art = .ok r) :
    ∃ p bitlen packed, parseArtifact m art = .ok (p, r.ft) ∧ readHeader p art = .ok (bitlen, packed)
      ∧ buildTree r.ft = .ok r.nodes ∧ walkStream r.ft r.nodes cap bitlen packed = .ok (r.bytes, r.nsym) := by
  unfold decodeArtifact at h
  simp only [bind, Except.bind] at h
  split at h
  · exact nomatch h
  · rename_i x hx
    split at h
    · exact nomatch h
    · rename_i y hy
      split at h
      · exact nomatch h
      · rename_i ns hns
        split at h
        · exact nomatch h
        · rename_i z hz
          obtain rfl := Except.ok.inj h
          exact ⟨x.1, y.1, y.2, hx, hy, hns, hz⟩

/-! ### The step -/

/-- A step is the core's run of the command in progress, or the host's next operation, or nothing. -/
theorem step_cases {s t : State} (h : step s = .next t) :
    (s.phase = .busy ∧ nextAgent s = .core ∧ coreStep (useSchedule s) = .next t)
      ∨ (∃ op rest, nextAgent s = .host ∧ s.hostOps = op :: rest
          ∧ hostAct op { useSchedule s with hostOps := rest } = .next t)
      ∨ (nextAgent s = .host ∧ s.hostOps = [] ∧ t = useSchedule s) := by
  unfold step at h
  split at h
  · rename_i ha
    unfold hostStep at h
    split at h
    · rename_i hops
      exact .inr (.inr ⟨ha, by simpa using hops, (Host.Outcome.next.inj h).symm⟩)
    · rename_i op rest hops
      exact .inr (.inl ⟨op, rest, ha, by simpa using hops, h⟩)
  · rename_i ha
    refine .inl ⟨?_, ha, h⟩
    cases hp : s.phase with
    | busy => rfl
    | idle => simp [nextAgent, hp] at ha

/-- The core's step is a command, or the completion of an illegal word. -/
theorem coreStep_cases {s t : State} (h : coreStep s = .next t) :
    (∃ i, decodeWord s.curOp = .ok i ∧ exec i s = .next t)
      ∨ ∃ e, decodeWord s.curOp = .error e ∧ t = illegalCommand e s := by
  unfold coreStep at h
  split at h
  · exact .inl ⟨_, ‹_›, h⟩
  · exact .inr ⟨_, ‹_›, (Host.Outcome.next.inj h).symm⟩

/-- A host operation that completes: a read, a write, a wait, a look at irq or a reset. -/
theorem hostAct_cases {op : HostOp} {s t : State} (h : hostAct op s = .next t) :
    (∃ w off, op = .csrRead w off ∧ t = csrRead w off s)
      ∨ (∃ w off v, op = .csrWrite w off v ∧ t = csrWrite w off v s)
      ∨ (∃ a, op = .bufRead a ∧ a.toNat < s.cfgBufSize.toNat ∧ readBreaksDuty s a.toNat = false
          ∧ t = giveHost [(readByte s a.toNat).setWidth 32] s)
      ∨ (∃ a v, op = .bufWrite a v ∧ a.toNat < s.cfgBufSize.toNat ∧ writeBreaksDuty s a.toNat = false
          ∧ t = { s with buf := Memory.write s.buf a.toNat (v.extractLsb' 0 8) })
      ∨ (op = .wait ∧ t = waitOnce s)
      ∨ (op = .reset ∧ t = hwReset s)
      ∨ (op = .irqRead ∧ t = irqRead s)
      ∨ (op = .waitIrq ∧ t = waitIrqOnce s) := by
  cases op with
  | csrRead w off => exact .inl ⟨w, off, rfl, (Host.Outcome.next.inj h).symm⟩
  | csrWrite w off v => exact .inr (.inl ⟨w, off, v, rfl, (Host.Outcome.next.inj h).symm⟩)
  | bufRead a =>
    simp only [hostAct, bufRead] at h
    split at h
    · exact nomatch h
    · split at h
      · exact nomatch h
      · exact .inr (.inr (.inl ⟨a, rfl, by omega, by simp_all, (Host.Outcome.next.inj h).symm⟩))
  | bufWrite a v =>
    simp only [hostAct, bufWrite] at h
    split at h
    · exact nomatch h
    · split at h
      · exact nomatch h
      · exact .inr (.inr (.inr (.inl ⟨a, v, rfl, by omega, by simp_all, (Host.Outcome.next.inj h).symm⟩)))
  | wait => exact .inr (.inr (.inr (.inr (.inl ⟨rfl, (Host.Outcome.next.inj h).symm⟩))))
  | reset => exact .inr (.inr (.inr (.inr (.inr (.inl ⟨rfl, (Host.Outcome.next.inj h).symm⟩)))))
  | irqRead => exact .inr (.inr (.inr (.inr (.inr (.inr (.inl ⟨rfl, (Host.Outcome.next.inj h).symm⟩))))))
  | waitIrq => exact .inr (.inr (.inr (.inr (.inr (.inr (.inr ⟨rfl, (Host.Outcome.next.inj h).symm⟩))))))

/-- The free words, one by one. -/
theorem freeWords_eq (d n : Nat) : freeWords d n = (List.range n).map (fun k => Config.freeWord (d + k)) := by
  induction n generalizing d with
  | zero => rfl
  | succ n ih => simp [freeWords, ih, List.range_succ_eq_map, Function.comp_def, Nat.add_comm, Nat.add_left_comm]

/-- A CSR access of another width, or at another offset, reads free words only. -/
theorem csrRead_of_not_ok {w : AccessWidth} {off : BitVec 8} (h : csrAccessOk w off = false) (s : State) :
    csrRead w off s = { s with draws := s.draws + w.words, hostReads := s.hostReads ++ freeWords s.draws w.words } := by
  simp [csrRead, csrReadWords, csrReadDraws, giveHost, h]

/-- An aligned word read hands the register's value. -/
theorem csrRead_of_ok {w : AccessWidth} {off : BitVec 8} (h : csrAccessOk w off = true) (s : State) :
    csrRead w off s = { s with draws := s.draws + csrReadDraws s w off,
                               hostReads := s.hostReads ++ [csrReadValue s w off] } := by
  simp [csrRead, csrReadWords, giveHost, h]

/-- A CSR write does nothing, is dropped, starts a command, clears STATUS bits, or sets one register. -/
theorem csrWrite_cases (w : AccessWidth) (off : BitVec 8) (v : Word) (s : State) :
    csrWrite w off v s = s ∨ (s.phase = .busy ∧ csrWrite w off v s = dropWrite s)
      ∨ (s.phase = .idle ∧ off = 0x14#8 ∧ csrWrite w off v s = accept v s)
      ∨ csrWrite w off v s = statusW1C v s
      ∨ (s.phase = .idle ∧ (csrWrite w off v s = { s with srcAddr := v } ∨ csrWrite w off v s = { s with srcLen := v }
          ∨ csrWrite w off v s = { s with dstAddr := v } ∨ csrWrite w off v s = { s with dstCap := v }))
      ∨ csrWrite w off v s = { s with irqEn := v.getLsbD 0 }
      ∨ csrWrite w off v s = { s with tblSel := v.extractLsb' 0 2 }
      ∨ csrWrite w off v s = { s with tblIdx := v } := by
  unfold csrWrite
  split
  · split
    · exact .inl rfl
    · rename_i c hc
      cases hp : s.phase <;> cases c <;> simp [csrWriteTo, idleWrite, hp]
      have : off.toNat = 0x14 := by
        unfold csrAt at hc
        split at hc <;> simp_all
      exact .inr (.inl (BitVec.eq_of_toNat_eq this))
  · exact .inl rfl

end Sys2Proof.Machine
end

