-- ==== Sys2Proof/Laws/PerInstr.lean ====
section
/-! SUPPORT. Statements for all commands, one lemma per constructor. -/

namespace Sys2Proof.Laws

/-- The command word of a well-formed command is legal: its reserved bits are 0 and its opcode is below 8
(30_encoding.md R302 to R304). -/
def EncodedLegal.Statement (i : Instr) : Prop := i.wf = true ∧ wordLegal (encodeWord i) = true

theorem EncodedLegal.nop : EncodedLegal.Statement .nop := by unfold EncodedLegal.Statement; decide
theorem EncodedLegal.clear : EncodedLegal.Statement .clear := by unfold EncodedLegal.Statement; decide
theorem EncodedLegal.count : EncodedLegal.Statement .count := by unfold EncodedLegal.Statement; decide
theorem EncodedLegal.parseft : EncodedLegal.Statement .parseft := by unfold EncodedLegal.Statement; decide
theorem EncodedLegal.build : EncodedLegal.Statement .build := by unfold EncodedLegal.Statement; decide
theorem EncodedLegal.gencode : EncodedLegal.Statement .gencode := by unfold EncodedLegal.Statement; decide
theorem EncodedLegal.encode : EncodedLegal.Statement .encode := by unfold EncodedLegal.Statement; decide
theorem EncodedLegal.decode : EncodedLegal.Statement .decode := by unfold EncodedLegal.Statement; decide

end Sys2Proof.Laws
end

