-- ==== Sys2Proof/Tests/Slice0.lean ====
section
/-! SUPPORT. Small tests of the model, each expected result taken from the spec's text or its test vectors
(95_test_vectors.md), and for every statement with hypotheses a named witness that meets them. -/

namespace Sys2Proof.Tests

open Sys2Proof Sys2Proof.Machine

/-! ### Command words, written bit by bit from 30_encoding.md R300 and R303: RSV (28 bits), then OP (4 bits) -/

theorem test_word_nop : decodeWord (0b0000000000000000000000000000#28 ++ 0b0000#4) = .ok .nop := by decide
theorem test_word_clear : decodeWord (0b0000000000000000000000000000#28 ++ 0b0001#4) = .ok .clear := by decide
theorem test_word_count : decodeWord (0b0000000000000000000000000000#28 ++ 0b0010#4) = .ok .count := by decide
theorem test_word_parseft : decodeWord (0b0000000000000000000000000000#28 ++ 0b0011#4) = .ok .parseft := by decide
theorem test_word_build : decodeWord (0b0000000000000000000000000000#28 ++ 0b0100#4) = .ok .build := by decide
theorem test_word_gencode : decodeWord (0b0000000000000000000000000000#28 ++ 0b0101#4) = .ok .gencode := by decide
theorem test_word_encode : decodeWord (0b0000000000000000000000000000#28 ++ 0b0110#4) = .ok .encode := by decide
theorem test_word_decode : decodeWord (0b0000000000000000000000000000#28 ++ 0b0111#4) = .ok .decode := by decide

/-- A NOP opcode with the top reserved bit set is illegal, and so is the first reserved opcode (R302, R304). -/
theorem test_word_reserved :
    decodeWord (0b1000000000000000000000000000#28 ++ 0b0000#4) = .error .reservedBits
      ∧ decodeWord (0b0000000000000000000000000000#28 ++ 0b1000#4) = .error .reservedOpcode
      ∧ decodeWord (0b0000000000000000000000000001#28 ++ 0b1000#4) = .error .reservedBits := by decide

/-- The host's form of the decoder, on the table's own numbering. -/
theorem test_table_word : decodeTableWord 32 7 = some .decode ∧ decodeTableWord 32 8 = none
    ∧ decodeTableWord 32 0x80000000 = none := by decide

/-! ### WellFormed: an ill-formed term for each check -/

theorem test_wf_commands : Instr.wf .nop = true ∧ Instr.wf .decode = true := by decide

/-- R302 and R304: bit 4 set; opcode 8; and the last legal word. -/
theorem test_wf_word : wordLegal 0x00000010#32 = false ∧ wordLegal 0x00000008#32 = false
    ∧ wordLegal 0x00000007#32 = true := by decide

/-- R320: the surrogates and what lies above U+10FFFF are no scalar values. -/
theorem test_wf_scalar : isScalar 0xD800#21 = false ∧ isScalar 0xDFFF#21 = false ∧ isScalar 0x110000#21 = false
    ∧ isScalar 0xD7FF#21 = true ∧ isScalar 0xE000#21 = true ∧ isScalar 0x10FFFF#21 = true := by decide

/-- R502: the null symbol is a scalar value that cannot be counted. -/
theorem test_wf_symbol : symOk 0#21 = false ∧ isScalar 0#21 = true ∧ symOk 1#21 = true := by decide

/-- R11, R12: the legal ranges of the parameters. -/
theorem test_wf_parameters : maxDistinctLegal 0 = false ∧ maxDistinctLegal 1112064 = false
    ∧ bufSizeLegal 0 = false ∧ maxDistinctLegal maxDistinctAtReset = true
    ∧ bufSizeLegal bufSizeAtReset = true := by decide

/-- Memory not rising, memory with an address twice, and memory outside its bounds are refused. -/
theorem test_wf_memory : Memory.wf [(2, 0), (1, 0)] = false ∧ Memory.wf [(1, 0), (1, 0)] = false
    ∧ Memory.wf [(1, 0), (2, 0)] = true ∧ Memory.below 256 [(256, 0)] = false := by decide

/-- FT tables that do not rise, hold the null symbol, a zero count, or too many entries. -/
theorem test_wf_table : ftWf 9 [⟨98, 1⟩, ⟨97, 1⟩] = false ∧ ftWf 9 [⟨97, 1⟩, ⟨97, 1⟩] = false
    ∧ ftWf 9 [⟨0, 1⟩] = false ∧ ftWf 9 [⟨97, 0⟩] = false ∧ ftWf 1 [⟨97, 1⟩, ⟨98, 1⟩] = false
    ∧ ftWf 2 [⟨97, 1⟩, ⟨98, 1⟩] = true := by decide

/-! ### Small states -/

/-- The bytes of a text or artifact at address 0 as the source, and the upper half of BUF as the destination. -/
def withSource (bytes : List Byte) : State :=
  memWrite 0 bytes { State.reset with srcLen := BitVec.ofNat 32 bytes.length, dstAddr := 0x80, dstCap := 0x80 }

/-- The command accepted. -/
def running (i : Instr) (s : State) : State := accept (encodeWord i) s

/-- What holds of the state a command leaves. -/
def after (i : Instr) (s : State) (p : State → Bool) : Bool :=
  match exec i (running i s) with
  | .next t => p t
  | .fault _ => false
  | .refused _ => false

/-- The error report is this one, with no results. -/
def reports (code sub info : Word) (t : State) : Bool :=
  t.errCode == code && t.errSub == sub && t.errInfo == info && t.resultLen == 0 && t.resultAux == 0 && t.done

theorem exists_next {i : Instr} {s : State} (p : State → Bool) (h : after i s p = true) :
    ∃ t, exec i (running i s) = .next t ∧ p t = true := by
  unfold after at h
  split at h
  · exact ⟨_, ‹_›, h⟩
  · exact absurd h (by decide)
  · exact absurd h (by decide)

def abb : List Byte := [0x61, 0x62, 0x62]
def abbSyms : List Sym := [0x61, 0x62, 0x62]
def abbTable : List FtEntry := [⟨0x61, 1⟩, ⟨0x62, 2⟩]
def abbTree : List Node := [.leaf 1 0x61, .leaf 2 0x62, .internal 3 0 1 0]
def abbCodes : List CtEntry := [⟨0x61, [false]⟩, ⟨0x62, [true]⟩]
def abbArtifact : List Byte := [0x61, 0x01, 0x62, 0x02, 0x00, 0x00, 0x00, 0x00, 0x03, 0x60]

/-- "abracadabra" and its table (V-CNT-5). -/
def abra : List Byte := [0x61, 0x62, 0x72, 0x61, 0x63, 0x61, 0x64, 0x61, 0x62, 0x72, 0x61]
def abraTable : List FtEntry := [⟨0x61, 5⟩, ⟨0x62, 2⟩, ⟨0x63, 1⟩, ⟨0x64, 1⟩, ⟨0x72, 2⟩]

/-- Its tree (V-BLD-5). -/
def abraTree : List Node :=
  [.leaf 5 0x61, .leaf 2 0x62, .leaf 1 0x63, .leaf 1 0x64, .leaf 2 0x72,
   .internal 2 2 3 0, .internal 4 1 4 1, .internal 6 5 6 2, .internal 11 0 7 3]

/-- After ENCODE of "abb": all three tables valid. -/
def encodedAbb : State :=
  { withSource abb with ft := some abbTable, nodes := some abbTree, ct := some abbCodes, done := true }

/-! ### One step of each command -/

/-- V-CTL-2: NOP after a failed DECODE clears the report. -/
theorem test_nop_clears_report :
    after .nop { State.reset with errCode := 4, errSub := 5, errInfo := 3, done := true }
      (fun t => reports 0 0 0 t && statusWord t == 0x02) = true := by decide +kernel

/-- V-CTL-3: NOP keeps the tables, STATUS 0x3A. -/
theorem test_nop_keeps_tables : after .nop encodedAbb (fun t => statusWord t == 0x3A && t.ft == some abbTable) = true := by
  decide +kernel

/-- V-CTL-4: CLEAR after ENCODE leaves STATUS 0x02, and the window reads 0. -/
theorem test_clear : after .clear encodedAbb (fun t => statusWord t == 0x02 && ftCount t == 0 && nodeCount t == 0
    && rootIdx t == 0 && windowReads t == [0, 0, 0, 0, 0]) = true := by decide +kernel

/-- V-CNT-8: two-, three- and four-byte symbols, 14 symbols in 21 bytes. -/
theorem test_count_utf8 :
    after .count (withSource [0x68, 0xC3, 0xA9, 0x6C, 0x6C, 0x6F, 0x20, 0x77, 0xC3, 0xB6, 0x72, 0x6C, 0x64, 0x20,
        0xE2, 0x82, 0xAC, 0xF0, 0x9F, 0x98, 0x80])
      (fun t => t.ft == some [⟨0x20, 2⟩, ⟨0x64, 1⟩, ⟨0x68, 1⟩, ⟨0x6C, 3⟩, ⟨0x6F, 1⟩, ⟨0x72, 1⟩, ⟨0x77, 1⟩,
          ⟨0xE9, 1⟩, ⟨0xF6, 1⟩, ⟨0x20AC, 1⟩, ⟨0x1F600, 1⟩]
        && t.resultLen == 0 && t.resultAux == 14 && statusWord t == 0x0A) = true := by decide +kernel

/-- V-CNT-13: with MAX_DISTINCT 1, 'b' fails on capacity before the null byte is reached. -/
theorem test_count_capacity :
    after .count { withSource [0x61, 0x62, 0x00] with cfgMaxDistinct := 1, ft := some abbTable }
      (fun t => reports 9 0 1 t && statusWord t == 0x06) = true := by decide +kernel

/-- V-PFT-4 and V-LEB-3: entries out of order, and the greatest count. -/
theorem test_parseft_sorts :
    after .parseft (withSource [0x62, 0xFF, 0xFF, 0xFF, 0xFF, 0x0F, 0x61, 0x01, 0x00])
      (fun t => t.ft == some [⟨0x61, 1⟩, ⟨0x62, 0xFFFFFFFF⟩] && t.resultLen == 9 && t.resultAux == 2) = true := by
  decide +kernel

/-- V-PFT-16 and V-PFT-18: an overflowing count; the duplicate check before the varint. -/
theorem test_parseft_errors :
    after .parseft (withSource [0x61, 0x80, 0x80, 0x80, 0x80, 0x10, 0x00]) (reports 3 1 1) = true
      ∧ after .parseft (withSource [0x61, 0x01, 0x61, 0x80, 0x00]) (reports 4 3 2) = true := by decide +kernel

/-- V-BLD-5: leaves come before internal nodes at equal weight. -/
theorem test_build_ties : after .build { State.reset with ft := some abraTable }
    (fun t => (t.nodes.getD []).drop 5
        == [.internal 2 2 3 0, .internal 4 1 4 1, .internal 6 5 6 2, .internal 11 0 7 3]
      && t.resultAux == 9 && t.resultLen == 0) = true := by decide +kernel

/-- V-BLD-9 and V-BLD-15: a root weight above 32 bits, read through the window. -/
theorem test_build_weight : after .build { State.reset with ft := some [⟨0x61, 0xFFFFFFFF⟩, ⟨0x62, 0xFFFFFFFF⟩],
                                                            tblSel := 1, tblIdx := 2 }
    (fun t => windowReads t == [0xFFFFFFFE, 0x00000001, 0, 0, 1]) = true := by decide +kernel

/-- V-GEN-3: the codes of "abracadabra", the longest of 3 bits. -/
theorem test_gencode : after .gencode { State.reset with ft := some abraTable, nodes := some abraTree }
    (fun t => t.ct == some [⟨0x61, [false]⟩, ⟨0x62, [true, true, false]⟩, ⟨0x63, [true, false, false]⟩,
        ⟨0x64, [true, false, true]⟩, ⟨0x72, [true, true, true]⟩]
      && t.resultAux == 3) = true := by decide +kernel

/-- V-GEN-2: the code of a single symbol is empty. -/
theorem test_gencode_single : after .gencode { State.reset with ft := some [⟨0x61, 3⟩], nodes := some [.leaf 3 0x61] }
    (fun t => t.ct == some [⟨0x61, []⟩] && t.resultAux == 0) = true := by decide +kernel

/-- V-ENC-3: the artifact of "abracadabra", 18 bytes and 23 bits. -/
theorem test_encode : after .encode (withSource abra)
    (fun t => memRead t 0x80 18 == [0x61, 0x05, 0x62, 0x02, 0x63, 0x01, 0x64, 0x01, 0x72, 0x02, 0x00,
        0x00, 0x00, 0x00, 0x17, 0x6E, 0x8A, 0xDC]
      && t.resultLen == 18 && t.resultAux == 23 && statusWord t == 0x3A) = true := by decide +kernel

/-- V-ENC-27 and V-ENC-32: a region one byte too small; EMPTY_INPUT before the output check. -/
theorem test_encode_errors :
    after .encode { withSource abb with dstCap := 9 } (fun t => reports 8 0 10 t && t.buf == (withSource abb).buf) = true
      ∧ after .encode { withSource [] with dstCap := 0 } (reports 1 0 0) = true := by decide +kernel

/-- V-DEC-10: padding and a wrong bit length decode as data, "abbaaaaa"; nothing else of the region is written. -/
theorem test_decode : after .decode (withSource [0x61, 0x01, 0x62, 0x02, 0x00, 0x00, 0x00, 0x00, 0x08, 0x60])
    (fun t => memRead t 0x80 8 == [0x61, 0x62, 0x62, 0x61, 0x61, 0x61, 0x61, 0x61] && t.resultLen == 8
      && t.resultAux == 8 && statusWord t == 0x1A && Memory.get? t.buf 0x88 == none) = true := by decide +kernel

/-- V-DEC-16 and V-DEC-23's form: an incomplete codeword; the first symbol that does not fit. With overlapping regions
(R215, R812) no BUF byte is touched. -/
theorem test_decode_errors :
    after .decode (withSource [0x61, 0x01, 0x62, 0x01, 0x63, 0x01, 0x00, 0x00, 0x00, 0x00, 0x03, 0xB0]) (reports 5 2 2)
        = true
      ∧ after .decode { withSource abbArtifact with dstCap := 2 } (reports 8 0 3) = true
      ∧ after .decode { withSource abbArtifact with dstAddr := 9 }
          (fun t => reports 7 3 0 t && t.buf == (withSource abbArtifact).buf && t.draws == 0) = true := by decide +kernel

/-! ### Witnesses: the step and the host's accesses -/

def core1 : State := running .count (withSource abb)
def hosting : State := { core1 with hostOps := [.csrRead .word 0x18], schedule := [.host] }

/-- StepRunsDecodedCommand: each clause. -/
theorem test_witness_step :
    (nextAgent core1 = .core ∧ decodeWord core1.curOp = .ok .count)
      ∧ (nextAgent (accept 8 State.reset) = .core ∧ decodeWord (accept 8 State.reset).curOp = .error .reservedOpcode)
      ∧ (nextAgent hosting = .host ∧ hosting.hostOps = .csrRead .word 0x18 :: [])
      ∧ (State.reset.phase = .idle ∧ State.reset.hostOps = []) := by decide +kernel

/-- The first step after reset with a command placed runs it. -/
theorem test_step_runs_placed : step (State.reset.withFetchWord 32 4) = exec .build (running .build State.reset) := by
  rfl

/-- CmdWriteAccepts, WritesTakeEffect, StatusReadsFields, CountRegistersRead: an idle state; and a busy one. -/
theorem test_witness_phases : State.reset.phase = .idle ∧ core1.phase = .busy := by decide

/-- BusyWritesDropped: a busy state, at the last and the first register of the list. -/
theorem test_witness_dropped : core1.phase = .busy ∧ 0x14#8 ∈ [0x14#8, 0x28#8, 0x2C#8, 0x30#8, 0x34#8]
    ∧ 0x34#8 ∈ [0x14#8, 0x28#8, 0x2C#8, 0x30#8, 0x34#8] := by decide

/-- StatusWriteClears: a write that clears DONE. -/
theorem test_witness_w1c : (0x00000002#32).getLsbD 1 = true := by decide

/-- ReadOnlyWritesIgnored: the first and the last offset above the listed registers. -/
theorem test_witness_offsets : 0x68 ≤ (0x68#8).toNat ∧ 0x68 ≤ (0xFC#8).toNat := by decide

/-- MisalignedCsrAccess: a narrow access, a 64-bit access, and a word access one byte past a register. -/
theorem test_witness_misaligned : (AccessWidth.byte ≠ .word ∨ (0x18#8).toNat % 4 ≠ 0)
    ∧ (AccessWidth.wide 0 ≠ .word ∨ (0x18#8).toNat % 4 ≠ 0)
    ∧ (AccessWidth.word ≠ .word ∨ (0x19#8).toNat % 4 ≠ 0) := by decide

/-- R207, U2: a 64-bit read returns two free words, and a 64-bit write is ignored. -/
theorem test_wide_access :
    (csrRead (.wide 0) 0x18 State.reset).hostReads = [Config.freeWord 0, Config.freeWord 1]
      ∧ csrWrite (.wide 0) 0x10 1 State.reset = State.reset := ⟨rfl, rfl⟩

/-- AlignedReadsHandValues: the last aligned offset, and both values of DONE. StatusReadsFields: the first unlisted one. -/
theorem test_witness_aligned : (0xFC#8).toNat % 4 = 0 ∧ encodedAbb.done = true ∧ State.reset.done = false
    ∧ (0x68#8).toNat % 4 = 0 ∧ 0x68 ≤ (0x68#8).toNat := by decide +kernel

/-- IrqFollowsDone: both levels of irq (V-IRQ-1, V-IRQ-3). -/
theorem test_witness_irq_levels : irq { encodedAbb with irqEn := true } = true ∧ irq encodedAbb = false := by
  decide +kernel

/-- R430, row "finish": a host waiting for irq stays in place until the command completes with IRQ_EN = 1. -/
theorem test_wait_irq :
    (match step { core1 with irqEn := true, hostOps := [.waitIrq], schedule := [.host] } with
      | .next t => t.hostOps == [.waitIrq] && t.phase == .busy
      | .fault _ => false
      | .refused _ => false) = true
    ∧ (match hostStep { encodedAbb with irqEn := true, hostOps := [.waitIrq] } with
      | .next t => t.hostOps == []
      | .fault _ => false
      | .refused _ => false) = true := by decide +kernel

/-- HardwiredRegisters, HostStepsLeaveCommandAlone: a host step from a state with that operation next. -/
theorem test_witness_host_step : nextAgent hosting = .host ∧ (∃ t, step hosting = .next t)
    ∧ ∀ rest, hosting.hostOps ≠ .reset :: rest :=
  ⟨rfl, ⟨_, rfl⟩, fun _ h => by simp [hosting] at h⟩

/-- CountRegistersRead: every clause's state, n = 2 and n = 1. -/
theorem test_witness_counts :
    (State.reset.ft = none ∧ State.reset.nodes = none)
      ∧ (encodedAbb.phase = .idle ∧ encodedAbb.ft = some abbTable ∧ encodedAbb.nodes = some abbTree
          ∧ 2 ≤ abbTable.length)
      ∧ ({ State.reset with ft := some [⟨0x61, 3⟩], nodes := some [.leaf 3 0x61] } : State).ft = some [⟨0x61, 3⟩]
      ∧ ([⟨0x61, 3⟩] : List FtEntry).length = 1 := by decide +kernel

/-- WindowShowsTables: the last entry of FT, the first index past it, a leaf, the root, and the first index past the root. -/
theorem test_witness_window :
    (encodedAbb.phase = .idle ∧ encodedAbb.tblSel = 0 ∧ encodedAbb.ft = some abbTable ∧ abbTable[1]? = some ⟨0x62, 2⟩)
      ∧ ftCount encodedAbb ≤ (2#32).toNat
      ∧ (encodedAbb.nodes = some abbTree ∧ (1#32).toNat < 2 * abbTable.length - 1
          ∧ abbTree[1]? = some (.leaf 2 0x62))
      ∧ ((2#32).toNat < 2 * abbTable.length - 1 ∧ abbTree[2]? = some (.internal 3 0 1 0))
      ∧ 2 * ftCount encodedAbb - 1 ≤ (3#32).toNat
      ∧ State.reset.ft = none ∧ State.reset.nodes = none ∧ State.reset.ct = none := by decide +kernel

/-- The selections of WindowShowsTables. -/
theorem test_witness_selections :
    ({ encodedAbb with tblSel := 3 } : State).tblSel = 3 ∧ ({ encodedAbb with tblSel := 1 } : State).tblSel = 1
      ∧ ({ encodedAbb with tblSel := 2 } : State).tblSel = 2 := by decide +kernel

/-- WindowShowsCode: the last entry of CT. -/
theorem test_witness_code : let s := { encodedAbb with tblSel := 2, tblIdx := 1 }
    s.phase = .idle ∧ s.tblSel = 2 ∧ s.ft = some abbTable ∧ s.ct = some abbCodes
      ∧ s.tblIdx.toNat < abbTable.length ∧ abbCodes[s.tblIdx.toNat]? = some ⟨0x62, [true]⟩ := by decide +kernel

/-- IrqFollowsDone: the core's completing step, an idle block, and a host operation that keeps a DONE of 1. -/
theorem test_witness_irq : (nextAgent core1 = .core ∧ ∃ t, step core1 = .next t) ∧ encodedAbb.phase = .idle
    ∧ ∃ t, hostAct (.csrRead .word 0x18) encodedAbb = .next t ∧ t.done = true :=
  ⟨⟨rfl, ⟨_, rfl⟩⟩, rfl, ⟨_, rfl, rfl⟩⟩

/-- ResetPutsValues: an address outside the destination region of a running DECODE, and one inside it. -/
theorem test_witness_reset : let s := running .decode (withSource abbArtifact)
    ¬ (runningWritesDest s = true ∧ inDest s 0x7F = true) ∧ runningWritesDest s = true ∧ inDest s 0x80 = true := by
  decide +kernel

/-- BufByteAccess: the last address of BUF, and the first one outside. -/
theorem test_witness_buf :
    ((0xFF#32).toNat < State.reset.cfgBufSize.toNat ∧ readBreaksDuty State.reset 0xFF = false
        ∧ writeBreaksDuty State.reset 0xFF = false)
      ∧ State.reset.cfgBufSize.toNat ≤ (0x100#32).toNat := by decide +kernel

/-- HostDutiesWhileBusy: the last source byte, and the first and last destination bytes, of a running DECODE. -/
theorem test_witness_duties : let s := running .decode (withSource abbArtifact)
    (0xFF#32).toNat < s.cfgBufSize.toNat ∧ writeBreaksDuty s 9 = true ∧ readBreaksDuty s 9 = false
      ∧ writeBreaksDuty s 10 = false ∧ readBreaksDuty s 0x80 = true ∧ readBreaksDuty s 0xFF = true := by decide +kernel

/-! ### Witnesses: completion, frames and errors -/

/-- FailureInvalidatesTargets: a failing command of each row of R823. -/
theorem test_witness_failures :
    (∃ t, coreStep { State.reset with curOp := 8 } = .next t ∧ decodeWord 8 = .error .reservedOpcode ∧ t.errCode ≠ 0)
      ∧ (∃ t, exec .count (running .count (withSource [0xFF])) = .next t ∧ (t.errCode != 0) = true)
      ∧ (∃ t, exec .parseft (running .parseft (withSource [])) = .next t ∧ (t.errCode != 0) = true)
      ∧ (∃ t, exec .encode (running .encode (withSource [])) = .next t ∧ (t.errCode != 0) = true)
      ∧ (∃ t, exec .decode (running .decode (withSource [])) = .next t ∧ (t.errCode != 0) = true)
      ∧ (∃ t, exec .build (running .build State.reset) = .next t ∧ (t.errCode != 0) = true)
      ∧ (∃ t, exec .gencode (running .gencode State.reset) = .next t ∧ (t.errCode != 0) = true) :=
  ⟨⟨_, rfl, by decide, by decide⟩, exists_next _ (by decide +kernel), exists_next _ (by decide +kernel),
    exists_next _ (by decide +kernel), exists_next _ (by decide +kernel), exists_next _ (by decide +kernel),
    exists_next _ (by decide +kernel)⟩

/-- CommandsWriteOnlyDestination: the bytes next to the destination region of an ENCODE. -/
theorem test_witness_outside_destination : let s := running .encode (withSource abb)
    (∃ t, exec .encode s = .next t ∧ (t.errCode == 0) = true)
      ∧ ¬ ((Instr.encode = .encode ∨ Instr.encode = .decode)
          ∧ s.dstAddr.toNat ≤ 0x7F ∧ 0x7F < s.dstAddr.toNat + s.dstCap.toNat)
      ∧ ¬ ((Instr.encode = .encode ∨ Instr.encode = .decode)
          ∧ s.dstAddr.toNat ≤ 0x100 ∧ 0x100 < s.dstAddr.toNat + s.dstCap.toNat) :=
  ⟨exists_next _ (by decide +kernel), by decide +kernel, by decide +kernel⟩

/-- StoresOnlyResultBytes: an ENCODE and a DECODE that succeed, with the first byte past their results. -/
theorem test_witness_stored :
    (∃ t, exec .encode (running .encode (withSource abb)) = .next t
        ∧ (t.errCode == 0 && decide (0x80 + t.resultLen.toNat ≤ 0x8A)) = true)
      ∧ (∃ t, exec .decode (running .decode (withSource abbArtifact)) = .next t
        ∧ (t.errCode == 0 && decide (0x80 + t.resultLen.toNat ≤ 0x83)) = true)
      ∧ (running .encode (withSource abb)).errCode = 0 ∧ (running .decode (withSource abbArtifact)).errCode = 0 :=
  ⟨exists_next _ (by decide +kernel), exists_next _ (by decide +kernel), rfl, rfl⟩

/-- EncodeFailureWritesNothing (V-ENC-27). -/
theorem test_witness_encode_fails :
    ∃ t, exec .encode (running .encode { withSource abb with dstCap := 9 }) = .next t ∧ (t.errCode != 0) = true :=
  exists_next _ (by decide +kernel)

/-- RangeChecksFail: each check at its first failing value, and a state that passes all of them (V-RNG-2, V-RNG-3). -/
theorem test_witness_ranges :
    (let s := { State.reset with srcAddr := 0x101 };
      s.errCode = 0 ∧ s.srcAddr.toNat + s.srcLen.toNat > s.cfgBufSize.toNat)
      ∧ (let s := { withSource abb with dstCap := 0x81 };
          s.srcAddr.toNat + s.srcLen.toNat ≤ s.cfgBufSize.toNat ∧ s.dstAddr.toNat + s.dstCap.toNat > s.cfgBufSize.toNat)
      ∧ (let s := { withSource abb with dstAddr := 2 };
          s.dstAddr.toNat + s.dstCap.toNat ≤ s.cfgBufSize.toNat ∧ s.srcLen.toNat > 0 ∧ s.dstCap.toNat > 0
            ∧ s.srcAddr.toNat < s.dstAddr.toNat + s.dstCap.toNat ∧ s.dstAddr.toNat < s.srcAddr.toNat + s.srcLen.toNat)
      ∧ RangeOk .encode { withSource abb with dstAddr := 3 } := by
  unfold RangeOk SrcOk DstOk RegionsApart
  decide +kernel

/-! ### Witnesses: COUNT and the data encodings -/

/-- A table with these properties is the tally of the symbols. -/
theorem tally_of {f : List FtEntry} {syms : List Sym} (hr : ftRises f = true)
    (hf : ∀ e ∈ f, e.sym ∈ syms ∧ e.count.toNat = syms.count e.sym)
    (hs : syms.all (fun v => f.any (fun e => e.sym == v)) = true) : Tally f syms := by
  refine ⟨hr, fun v c => ⟨fun h => hf _ h, fun ⟨hv, hc⟩ => ?_⟩⟩
  obtain ⟨e, he, hev⟩ := List.any_eq_true.mp (List.all_eq_true.mp hs v hv)
  obtain rfl := eq_of_beq hev
  have : c = e.count := BitVec.eq_of_toNat_eq (by rw [hc, (hf e he).2])
  exact this ▸ he

theorem test_abb_tally : Tally abbTable abbSyms := tally_of (by decide) (by decide) (by decide)

theorem test_abb_symbols : ∀ v ∈ abbSyms, symOk v = true := List.all_eq_true.mp (by decide)

/-- CountTalliesText: "abb" (R510's example). -/
theorem test_witness_tally : let s := withSource abb
    SrcOk s ∧ sourceBytes s = textOf abbSyms ∧ (∀ v ∈ abbSyms, symOk v = true) ∧ Tally abbTable abbSyms
      ∧ abbTable.length ≤ s.cfgMaxDistinct.toNat :=
  ⟨by unfold SrcOk; decide +kernel, by decide +kernel, test_abb_symbols, test_abb_tally, by decide +kernel⟩

/-- CountTextErrors: an ill-formed byte, a null byte, and a third symbol in a table of two, after "abb". -/
theorem test_witness_count_errors :
    ((∀ v ∈ abbSyms, symOk v = true) ∧ Tally abbTable abbSyms)
      ∧ (let s := withSource (abb ++ [0xFF]);
          RangeOk .encode s ∧ sourceBytes s = textOf abbSyms ++ [0xFF] ∧ abbTable.length ≤ s.cfgMaxDistinct.toNat
            ∧ utf8At [0xFF] = none)
      ∧ (let s := withSource (abb ++ [0x00]);
          RangeOk .count s ∧ sourceBytes s = textOf abbSyms ++ [0x00] ∧ abbTable.length ≤ s.cfgMaxDistinct.toNat
            ∧ utf8At [0x00] = some (0, 1))
      ∧ (let s := { withSource (abb ++ [0x63]) with cfgMaxDistinct := 2 };
          RangeOk .count s ∧ sourceBytes s = textOf abbSyms ++ [0x63] ∧ utf8At [0x63] = some (0x63, 1)
            ∧ 0x63#21 ∉ abbSyms ∧ abbTable.length = s.cfgMaxDistinct.toNat) := by
  refine ⟨⟨test_abb_symbols, test_abb_tally⟩, ?_⟩
  unfold RangeOk SrcOk DstOk RegionsApart
  decide +kernel

/-- CountOverflowUnreachable: a COUNT and an ENCODE that answer a next state. -/
theorem test_witness_counting :
    (∃ t, exec .count (running .count (withSource abb)) = .next t ∧ true = true)
      ∧ (∃ t, exec .encode (running .encode (withSource abb)) = .next t ∧ true = true) :=
  ⟨exists_next (fun _ => true) (by decide +kernel), exists_next (fun _ => true) (by decide +kernel)⟩

/-- Utf8RoundTrip: the scalar values where the lengths change, and a sequence that reads (V-UTF rows of section 3). -/
theorem test_witness_utf8 : [0x7F#21, 0x80, 0x7FF, 0x800, 0xD7FF, 0xE000, 0xFFFF, 0x10000, 0x10FFFF].all isScalar = true
    ∧ utf8At [0xF4, 0x8F, 0xBF, 0xBF] = some (0x10FFFF, 4) ∧ utf8At [0xF4, 0x90, 0x80, 0x80] = none := by decide +kernel

/-- FtSegmentHasNoZero: the counts where the lengths change, a table, and an encode that succeeds. -/
theorem test_witness_segment : [1#32, 127, 128, 16383, 16384, 0xFFFFFFFF].all (· != 0) = true
    ∧ (∀ e ∈ abbTable, symOk e.sym = true ∧ e.count ≠ 0)
    ∧ (encodeText 2 10 abb).toOption.map (·.bytes) = some abbArtifact := by decide +kernel

/-- PackedBitsLayout: as many bits as the bytes hold, and the last padding position of V-PACK-4. -/
theorem test_witness_packed : 16 ≤ 8 * ([0xAF, 0x00] : List Byte).length
    ∧ 15 < 8 * ceilDiv8 ([true, false, true, false, true, true, true, true, false, false] : Bits).length
    ∧ packBits [true, false, true, false, true, true, true, true, false, false] = [0xAF, 0x00] := by decide +kernel

/-! ### Witnesses: PARSEFT -/

def baTable : List FtEntry := [⟨0x62, 2⟩, ⟨0x61, 1⟩]

/-- ParseftReadsTable: V-PFT-4, the entries permuted. -/
theorem test_witness_parse : let s := withSource [0x62, 0x02, 0x61, 0x01, 0x00]
    SrcOk s ∧ sourceBytes s = serialiseFt baTable ++ 0#8 :: [] ∧ (∀ e ∈ baTable, symOk e.sym = true ∧ e.count ≠ 0)
      ∧ abbTable.Perm baTable ∧ ftRises abbTable = true ∧ baTable.length ≤ s.cfgMaxDistinct.toNat := by
  unfold SrcOk
  decide +kernel

/-- SentinelScanFinds: V-PFT-7, for PARSEFT and DECODE. -/
theorem test_witness_no_sentinel : let s := withSource [0x61, 0x01, 0x62, 0x02]
    RangeOk .parseft s ∧ RangeOk .decode s ∧ 0#8 ∉ sourceBytes s := by
  unfold RangeOk SrcOk DstOk RegionsApart
  decide +kernel

/-- ParserEntryErrors: each clause after the entry `61 01` (V-PFT-8, V-PFT-9, V-PFT-13, V-PFT-15, V-PFT-16). -/
theorem test_witness_entry_errors :
    let f : List FtEntry := [⟨0x61, 1⟩]
    let bytes := fun bad : List Byte => serialiseFt f ++ bad ++ 0#8 :: []
    (∀ e ∈ f, symOk e.sym = true ∧ e.count ≠ 0) ∧ (f.map (·.sym)).Nodup
      ∧ (∀ bad ∈ ([[0xC0, 0x80], [0x61, 0x01], [0x62, 0x01], [0x62, 0x80], [0x62, 0x80, 0x80, 0x80, 0x80, 0x10]] :
            List (List Byte)),
          bad ≠ [] ∧ 0#8 ∉ bad ∧ RangeOk .parseft (withSource (bytes bad)) ∧ RangeOk .decode (withSource (bytes bad))
            ∧ sourceBytes (withSource (bytes bad)) = bytes bad)
      ∧ utf8At [0xC0, 0x80] = none
      ∧ (utf8At [0x61, 0x01] = some (0x61, 1) ∧ 0x61#21 ∈ f.map (·.sym))
      ∧ (let s := { withSource (bytes [0x62, 0x01]) with cfgMaxDistinct := 1 };
          RangeOk .parseft s ∧ sourceBytes s = bytes [0x62, 0x01] ∧ utf8At [0x62, 0x01] = some (0x62, 1)
            ∧ 0x62#21 ∉ f.map (·.sym) ∧ f.length = s.cfgMaxDistinct.toNat)
      ∧ (utf8At [0x62, 0x80] = some (0x62, 1) ∧ f.length < State.reset.cfgMaxDistinct.toNat
          ∧ readVarint [0x80] = none)
      ∧ (readVarint [0x80, 0x80, 0x80, 0x80, 0x10] = some (4294967296, 5) ∧ 4294967296 > 4294967295) := by
  unfold RangeOk SrcOk DstOk RegionsApart
  decide +kernel

/-! ### Witnesses: BUILD and GENCODE -/

/-- SequenceErrors, BuildMakesTree: no table, an empty one (V-BLD-17), and one of n = 1. -/
theorem test_witness_build : State.reset.ft = none ∧ State.reset.nodes = none
    ∧ ({ State.reset with ft := some [] } : State).ft = some []
    ∧ ({ State.reset with ft := some [⟨0x61, 3⟩] } : State).ft = some [⟨0x61, 3⟩]
    ∧ ([⟨0x61, 3⟩] : List FtEntry) ≠ [] := by decide +kernel

theorem test_abb_tree : buildTree abbTable = .ok abbTree := rfl

/-- TreeWeights, TreeHasOneParentEach, FirstExtractedIsLeft, TwoQueueEquivalence, CodesArePrefixFree: the tree of
"abb" (V-BLD-1), and the single leaf (V-BLD-2). -/
theorem test_witness_tree : buildTree abbTable = .ok abbTree ∧ abbTable.length ≤ 1112063
    ∧ ftWf 1112063 abbTable = true ∧ abbTree[2]? = some (.internal 3 0 1 0) ∧ 2 ≤ abbTable.length
    ∧ buildTree [⟨0x61, 3⟩] = .ok [.leaf 3 0x61] :=
  ⟨rfl, by decide, by decide +kernel, rfl, by decide, rfl⟩

/-- GencodeWritesPaths. -/
theorem test_witness_gencode : encodedAbb.nodes = some abbTree ∧ buildTree abbTable = .ok abbTree := ⟨rfl, rfl⟩

/-! ### Witnesses: ENCODE -/

/-- EncodeWritesArtifact: V-ENC-28, a region of exactly 10 bytes. -/
theorem test_witness_encode :
    ((∀ v ∈ abbSyms, symOk v = true) ∧ Tally abbTable abbSyms ∧ buildTree abbTable = .ok abbTree)
      ∧ (let s := { withSource abb with dstCap := 10 };
          RangeOk .encode s ∧ sourceBytes s = textOf abbSyms ∧ abbTable.length ≤ s.cfgMaxDistinct.toNat
            ∧ codesOf (genCodes abbTree) abbSyms = [false, true, true]
            ∧ serialiseFt abbTable ++ [0#8] ++ be32 (BitVec.ofNat 32 3) ++ packBits [false, true, true] = abbArtifact
            ∧ abbArtifact.length ≤ s.dstCap.toNat) := by
  refine ⟨⟨test_abb_symbols, test_abb_tally, rfl⟩, ?_⟩
  unfold RangeOk SrcOk DstOk RegionsApart
  decide +kernel

/-- EncodeErrors: the empty text, and a region one byte too small (V-ENC-19, V-ENC-27). -/
theorem test_witness_encode_errors :
    ((∀ v ∈ abbSyms, symOk v = true) ∧ Tally abbTable abbSyms ∧ buildTree abbTable = .ok abbTree)
      ∧ (RangeOk .encode (withSource []) ∧ (withSource []).srcLen = 0)
      ∧ (let s := { withSource abb with dstCap := 9 };
          RangeOk .encode s ∧ sourceBytes s = textOf abbSyms ∧ abbTable.length ≤ s.cfgMaxDistinct.toNat
            ∧ ftSegLength abbTable + 5 + ceilDiv8 (codesOf (genCodes abbTree) abbSyms).length > s.dstCap.toNat) := by
  refine ⟨⟨test_abb_symbols, test_abb_tally, rfl⟩, ?_⟩
  unfold RangeOk SrcOk DstOk RegionsApart
  decide +kernel

/-- `n` copies each of a, b, c and d. -/
def longSyms (n : Nat) : List Sym :=
  List.replicate n 0x61 ++ (List.replicate n 0x62 ++ (List.replicate n 0x63 ++ List.replicate n 0x64))

def longTable (c : Word) : List FtEntry := [⟨0x61, c⟩, ⟨0x62, c⟩, ⟨0x63, c⟩, ⟨0x64, c⟩]

def longTree : List Node :=
  [.leaf 0x20000000 0x61, .leaf 0x20000000 0x62, .leaf 0x20000000 0x63, .leaf 0x20000000 0x64,
   .internal 0x40000000 0 1 0, .internal 0x40000000 2 3 1, .internal 0x80000000 4 5 2]

theorem longSyms_tally (n : Nat) (c : Word) (hn : 0 < n) (hc : c.toNat = n) : Tally (longTable c) (longSyms n) := by
  refine ⟨by simp [longTable, ftRises], fun v k => ?_⟩
  simp only [longTable, longSyms, List.mem_cons, FtEntry.mk.injEq, List.not_mem_nil, or_false, List.mem_append,
    List.mem_replicate, List.count_append, List.count_replicate]
  have hk : ∀ k : Word, k = c ↔ k.toNat = n := fun k => by rw [← hc, BitVec.toNat_inj]
  constructor
  · rintro (⟨rfl, rfl⟩ | ⟨rfl, rfl⟩ | ⟨rfl, rfl⟩ | ⟨rfl, rfl⟩) <;> simp [hc] <;> omega
  · rintro ⟨(⟨_, rfl⟩ | ⟨_, rfl⟩ | ⟨_, rfl⟩ | ⟨_, rfl⟩), h⟩ <;> simp [hk] at h ⊢ <;> exact h

theorem longSyms_text (n : Nat) : (textOf (longSyms n)).length = 4 * n := by
  have h : ∀ v : Sym, (utf8 v).length = 1 → ((List.replicate n v).flatMap utf8).length = n := by
    intro v hv
    simp [List.length_flatMap, hv]
  simp only [textOf, longSyms, List.flatMap_append, List.length_append, h _ (show (utf8 0x61).length = 1 by rfl),
    h _ (show (utf8 0x62).length = 1 by rfl), h _ (show (utf8 0x63).length = 1 by rfl),
    h _ (show (utf8 0x64).length = 1 by rfl)]
  omega

theorem longSyms_bits (n : Nat) : (codesOf (genCodes longTree) (longSyms n)).length = 8 * n := by
  have h : ∀ v : Sym, (codeOf v (genCodes longTree)).length = 2 →
      ((List.replicate n v).flatMap (fun v => codeOf v (genCodes longTree))).length = 2 * n := by
    intro v hv
    simp [List.length_flatMap, hv]
    omega
  simp only [codesOf, longSyms, List.flatMap_append, List.length_append,
    h _ (show (codeOf 0x61 (genCodes longTree)).length = 2 by rfl),
    h _ (show (codeOf 0x62 (genCodes longTree)).length = 2 by rfl),
    h _ (show (codeOf 0x63 (genCodes longTree)).length = 2 by rfl),
    h _ (show (codeOf 0x64 (genCodes longTree)).length = 2 by rfl)]
  omega

theorem longSyms_ok (n : Nat) : ∀ v ∈ longSyms n, symOk v = true := by
  intro v hv
  simp only [longSyms, List.mem_append, List.mem_replicate] at hv
  obtain ⟨_, rfl⟩ | ⟨_, rfl⟩ | ⟨_, rfl⟩ | ⟨_, rfl⟩ := hv <;> rfl

/-- A block of the greatest size with `n` copies each of a, b, c and d as its source. -/
def longState (n : Nat) : State :=
  memWrite 0 (textOf (longSyms n))
    { State.resetWith 4 0xFFFFFFFF with srcLen := BitVec.ofNat 32 (4 * n), dstAddr := 0x80000000, dstCap := 0x7FFFFFFF }

theorem longState_source (n : Nat) (h : 4 * n < 2 ^ 32) : sourceBytes (longState n) = textOf (longSyms n) := by
  have hl : (longState n).srcLen.toNat = (textOf (longSyms n)).length := by
    rw [longSyms_text]
    simp only [longState, memWrite, BitVec.toNat_ofNat]
    omega
  unfold sourceBytes
  rw [hl]
  exact memRead_memWrite _ 0 _

/-- EncodeErrors: a text of 2^31 bytes, 2^29 each of four symbols, whose 2^32 code bits overflow the header; the case
V-ENC-33 shows is reachable. -/
theorem test_witness_bit_overflow : ∃ n, n = 536870912
      ∧ RangeOk .encode (longState n) ∧ sourceBytes (longState n) = textOf (longSyms n)
      ∧ (∀ v ∈ longSyms n, symOk v = true) ∧ Tally (longTable 0x20000000) (longSyms n)
      ∧ (longTable 0x20000000).length ≤ (longState n).cfgMaxDistinct.toNat
      ∧ buildTree (longTable 0x20000000) = .ok longTree
      ∧ (codesOf (genCodes longTree) (longSyms n)).length > 4294967295 := by
  refine ⟨536870912, rfl, ?_⟩
  generalize hn : 536870912 = n
  refine ⟨?_, longState_source n (by omega), longSyms_ok n, longSyms_tally n _ (by omega) (by rw [← hn]; rfl), ?_, rfl, ?_⟩
  · simp [RangeOk, SrcOk, DstOk, RegionsApart, longState, memWrite, State.resetWith]
    omega
  · simp [longTable, longState, memWrite, State.resetWith]
  · rw [longSyms_bits]
    omega

/-- EncodeEqualsUnits: an ENCODE that succeeds. -/
theorem test_witness_units : (running .encode (withSource abb)).errCode = 0
    ∧ ∃ t, exec .encode (running .encode (withSource abb)) = .next t ∧ (t.errCode == 0) = true :=
  ⟨rfl, exists_next _ (by decide +kernel)⟩

/-- EncodeDecodeRoundTrip: "abb" decoded to a region of exactly 3 bytes. -/
theorem test_witness_round_trip :
    ∃ t, exec .encode (running .encode (withSource abb)) = .next t
      ∧ (t.errCode == 0 && (let u := { t with srcAddr := t.dstAddr, srcLen := t.resultLen, dstAddr := 0xFD, dstCap := 3 }
          decide (u.srcAddr.toNat + u.srcLen.toNat ≤ u.cfgBufSize.toNat)
            && decide (u.dstAddr.toNat + u.dstCap.toNat ≤ u.cfgBufSize.toNat)
            && decide (u.srcAddr.toNat + u.srcLen.toNat ≤ u.dstAddr.toNat)
            && decide ((withSource abb).srcLen.toNat ≤ (3#32).toNat))) = true :=
  exists_next _ (by decide +kernel)

/-! ### Witnesses: DECODE -/

/-- DecodeWritesText: V-DEC-6 with V-DEC-9's trailing bytes and V-DEC-8's padding. -/
theorem test_witness_decode : (buildTree abbTable = .ok abbTree ∧ ∀ v ∈ abbSyms, v ∈ abbTable.map (·.sym))
    ∧ (let s := { withSource [0x62, 0x02, 0x61, 0x01, 0, 0, 0, 0, 3, 0x7F, 0xFF, 0xFF] with dstCap := 3 };
      RangeOk .decode s
      ∧ sourceBytes s = serialiseFt baTable ++ [0#8] ++ be32 (BitVec.ofNat 32 3) ++ [0x7F, 0xFF, 0xFF]
      ∧ (∀ e ∈ baTable, symOk e.sym = true ∧ e.count ≠ 0) ∧ abbTable.Perm baTable ∧ ftRises abbTable = true
      ∧ 2 ≤ baTable.length ∧ baTable.length ≤ s.cfgMaxDistinct.toNat
      ∧ 3 ≤ 8 * ([0x7F, 0xFF, 0xFF] : List Byte).length
      ∧ streamBits 3 [0x7F, 0xFF, 0xFF] = codesOf (genCodes abbTree) abbSyms
      ∧ (textOf abbSyms).length ≤ s.dstCap.toNat) := by
  refine ⟨⟨rfl, by simp [abbSyms, abbTable]⟩, ?_⟩
  unfold RangeOk SrcOk DstOk RegionsApart
  decide +kernel

/-- DecodeSingleLeaf: V-DEC-19, V-DEC-2 in a region of exactly 3 bytes, and V-DEC-21. -/
theorem test_witness_single_leaf :
    (RangeOk .decode (withSource [0x61, 0x03, 0, 0, 0, 0, 1, 0x80])
      ∧ sourceBytes (withSource [0x61, 0x03, 0, 0, 0, 0, 1, 0x80])
          = serialiseFt [⟨0x61, 3⟩] ++ [0#8] ++ be32 (BitVec.ofNat 32 1) ++ [0x80])
      ∧ (RangeOk .decode { withSource [0x61, 0x03, 0, 0, 0, 0, 0] with dstCap := 3 }
        ∧ RangeOk .decode { withSource [0x61, 0x03, 0, 0, 0, 0, 0] with dstCap := 2 }
        ∧ sourceBytes (withSource [0x61, 0x03, 0, 0, 0, 0, 0])
          = serialiseFt [⟨0x61, 3⟩] ++ [0#8] ++ be32 (BitVec.ofNat 32 0) ++ [])
      ∧ (3#32).toNat * utf8len 0x61 ≤ (3#32).toNat ∧ (2#32).toNat < (3#32).toNat * utf8len 0x61
      ∧ symOk 0x61 = true ∧ (3#32 : Word) ≠ 0 ∧ 1 ≤ State.reset.cfgMaxDistinct.toNat ∧ 1 ≤ 8 * ([0x80] : List Byte).length := by
  unfold RangeOk SrcOk DstOk RegionsApart
  decide +kernel

def abcTable : List FtEntry := [⟨0x61, 1⟩, ⟨0x62, 1⟩, ⟨0x63, 1⟩]
def abcTree : List Node := [.leaf 1 0x61, .leaf 1 0x62, .leaf 1 0x63, .internal 2 0 1 0, .internal 3 2 3 1]

/-- DecodeWalkErrors: V-DEC-16 (the bits 10 1, an 'a' and an incomplete codeword), and V-DEC-20. -/
theorem test_witness_walk :
    (buildTree abcTable = .ok abcTree ∧ (∀ v ∈ [0x61#21], v ∈ abcTable.map (·.sym))
      ∧ (let s := withSource [0x61, 1, 0x62, 1, 0x63, 1, 0, 0, 0, 0, 3, 0xB0];
          RangeOk .decode s
            ∧ sourceBytes s = serialiseFt abcTable ++ [0#8] ++ be32 (BitVec.ofNat 32 3) ++ [0xB0]
            ∧ (∀ e ∈ abcTable, symOk e.sym = true ∧ e.count ≠ 0) ∧ abcTable.Perm abcTable ∧ ftRises abcTable = true
            ∧ 2 ≤ abcTable.length ∧ abcTable.length ≤ s.cfgMaxDistinct.toNat
            ∧ streamBits 3 [0xB0] = codesOf (genCodes abcTree) [0x61] ++ [true]
            ∧ (∃ x ∈ genCodes abcTree, [true] <+: x.code ∧ [true] ≠ x.code)
            ∧ (textOf [0x61]).length ≤ s.dstCap.toNat))
    ∧ (buildTree abbTable = .ok abbTree ∧ (∀ v ∈ [0x61#21, 0x62], v ∈ abbTable.map (·.sym))
      ∧ (let s := { withSource abbArtifact with dstCap := 2 };
          RangeOk .decode s
            ∧ sourceBytes s = serialiseFt abbTable ++ [0#8] ++ be32 (BitVec.ofNat 32 3) ++ [0x60]
            ∧ (∀ e ∈ abbTable, symOk e.sym = true ∧ e.count ≠ 0) ∧ abbTable.Perm abbTable ∧ ftRises abbTable = true
            ∧ 2 ≤ abbTable.length ∧ abbTable.length ≤ s.cfgMaxDistinct.toNat
            ∧ streamBits 3 [0x60] = codesOf (genCodes abbTree) [0x61, 0x62] ++ [true]
            ∧ (∃ x ∈ genCodes abbTree, x.code <+: [true]
                ∧ (textOf [0x61, 0x62]).length + (utf8 x.sym).length > s.dstCap.toNat)
            ∧ (textOf [0x61, 0x62]).length ≤ s.dstCap.toNat)) := by
  refine ⟨⟨rfl, by simp [abcTable], ?_⟩, ⟨rfl, by simp [abbTable], ?_⟩⟩
  all_goals
    unfold RangeOk SrcOk DstOk RegionsApart
    decide +kernel

/-- DecodeHeaderErrors: V-DEC-28, V-DEC-30's form and V-DEC-26. -/
theorem test_witness_header :
    (RangeOk .decode (withSource [0x61, 0x03, 0, 0, 0])
      ∧ sourceBytes (withSource [0x61, 0x03, 0, 0, 0]) = serialiseFt [⟨0x61, 3⟩] ++ [0#8] ++ [0, 0] ++ [])
      ∧ (RangeOk .decode (withSource [0x61, 0x03, 0, 0, 0, 0, 9, 0xFF])
        ∧ sourceBytes (withSource [0x61, 0x03, 0, 0, 0, 0, 9, 0xFF]) = serialiseFt [⟨0x61, 3⟩] ++ [0#8] ++ [0, 0, 0, 9] ++ [0xFF]
        ∧ beValue [0, 0, 0, 9] > 8 * ([0xFF] : List Byte).length)
      ∧ (RangeOk .decode (withSource [0, 0, 0, 0, 0])
        ∧ sourceBytes (withSource [0, 0, 0, 0, 0]) = serialiseFt [] ++ [0#8] ++ [0, 0, 0, 0] ++ []
        ∧ beValue [0, 0, 0, 0] ≤ 8 * ([] : List Byte).length)
      ∧ (∀ e ∈ ([⟨0x61, 3⟩] : List FtEntry), symOk e.sym = true ∧ e.count ≠ 0)
      ∧ (([⟨0x61, 3⟩] : List FtEntry).map (·.sym)).Nodup := by
  unfold RangeOk SrcOk DstOk RegionsApart
  decide +kernel

/-! ### Witnesses: the invariants -/

/-- The state after ENCODE of "abb" meets every invariant. -/
theorem test_witness_safe : Safe encodedAbb := by
  refine ⟨by unfold MemInv; decide +kernel, ?_, ⟨?_, ?_⟩, by unfold ReportInv; decide +kernel, fun h => ?_⟩
  · intro f h
    cases h
    decide +kernel
  · intro ns h
    cases h
    exact ⟨abbTable, rfl, rfl⟩
  · intro c h
    cases h
    exact ⟨abbTree, rfl, rfl⟩
  · exact absurd h (by decide)

/-- A state with a command in progress that meets every invariant, and takes a step. -/
theorem test_witness_safe_busy : Safe core1 ∧ ∃ t, step core1 = .next t := by
  refine ⟨⟨by unfold MemInv; decide +kernel, ?_, ⟨?_, ?_⟩, by unfold ReportInv; decide +kernel, fun _ => by decide +kernel⟩,
    ⟨_, rfl⟩⟩
  · intro f h
    cases h
  · intro ns h
    cases h
  · intro c h
    cases h

end Sys2Proof.Tests
end

section
/-! PROOFS. What the host's operations and the commands leave unchanged, and the shape of every invariant's proof. -/

namespace Sys2Proof.Machine

/-! ### The host's operations, field by field -/

@[simp] theorem hwReset_cfgMaxDistinct (s : State) : (hwReset s).cfgMaxDistinct = s.cfgMaxDistinct := rfl
@[simp] theorem hwReset_cfgBufSize (s : State) : (hwReset s).cfgBufSize = s.cfgBufSize := rfl
@[simp] theorem hwReset_phase (s : State) : (hwReset s).phase = .idle := rfl
@[simp] theorem hwReset_done (s : State) : (hwReset s).done = false := rfl
@[simp] theorem hwReset_dropped (s : State) : (hwReset s).dropped = false := rfl
@[simp] theorem hwReset_errCode (s : State) : (hwReset s).errCode = 0 := rfl
@[simp] theorem hwReset_errSub (s : State) : (hwReset s).errSub = 0 := rfl
@[simp] theorem hwReset_errInfo (s : State) : (hwReset s).errInfo = 0 := rfl
@[simp] theorem hwReset_ft (s : State) : (hwReset s).ft = none := rfl
@[simp] theorem hwReset_nodes (s : State) : (hwReset s).nodes = none := rfl
@[simp] theorem hwReset_ct (s : State) : (hwReset s).ct = none := rfl
@[simp] theorem hwReset_powerOn (s : State) : (hwReset s).powerOn = s.powerOn := rfl
theorem hwReset_buf (s : State) :
    (hwReset s).buf = if runningWritesDest s then (scribbleDest s).buf else s.buf := by
  unfold hwReset
  cases runningWritesDest s <;> rfl

/-- A CSR write leaves the hardwired registers, the tables and BUF alone. -/
theorem csrWrite_frame (w : AccessWidth) (off : BitVec 8) (v : Word) (s : State) :
    (csrWrite w off v s).cfgMaxDistinct = s.cfgMaxDistinct ∧ (csrWrite w off v s).cfgBufSize = s.cfgBufSize
      ∧ (csrWrite w off v s).ft = s.ft ∧ (csrWrite w off v s).nodes = s.nodes ∧ (csrWrite w off v s).ct = s.ct
      ∧ (csrWrite w off v s).buf = s.buf := by
  rcases csrWrite_cases w off v s with h | ⟨-, h⟩ | ⟨-, -, h⟩ | h | ⟨-, h | h | h | h⟩ | h | h | h <;> simp [h]

/-- `wait` reads STATUS, and may stay the next operation. -/
theorem waitOnce_eq (s : State) :
    ∃ d ops reads, waitOnce s = { s with draws := d, hostOps := ops, hostReads := reads } := by
  unfold waitOnce
  split <;> exact ⟨_, _, _, rfl⟩

theorem waitIrqOnce_eq (s : State) : ∃ ops, waitIrqOnce s = { s with hostOps := ops } := by
  unfold waitIrqOnce
  split
  · exact ⟨s.hostOps, rfl⟩
  · exact ⟨_, rfl⟩

/-- A host operation is a reset, a CSR write, a byte write inside BUF, or one that changes the host's side and the count of
free values only. -/
theorem hostAct_effect {op : HostOp} {s t : State} (h : hostAct op s = .next t) :
    (op = .reset ∧ t = hwReset s)
      ∨ (∃ w off v, op = .csrWrite w off v ∧ t = csrWrite w off v s)
      ∨ (∃ a v, op = .bufWrite a v ∧ a.toNat < s.cfgBufSize.toNat
          ∧ t = { s with buf := Memory.write s.buf a.toNat (v.extractLsb' 0 8) })
      ∨ ∃ d ops reads, t = { s with draws := d, hostOps := ops, hostReads := reads } := by
  obtain ⟨w, off, -, rfl⟩ | ⟨w, off, v, rfl, rfl⟩ | ⟨a, -, -, -, rfl⟩ | ⟨a, v, rfl, ha, -, rfl⟩ | ⟨-, rfl⟩ | ⟨rfl, rfl⟩
    | ⟨-, rfl⟩ | ⟨-, rfl⟩ := hostAct_cases h
  · exact .inr (.inr (.inr ⟨_, _, _, rfl⟩))
  · exact .inr (.inl ⟨w, off, v, rfl, rfl⟩)
  · exact .inr (.inr (.inr ⟨_, _, _, rfl⟩))
  · exact .inr (.inr (.inl ⟨a, v, rfl, ha, rfl⟩))
  · exact .inr (.inr (.inr (waitOnce_eq s)))
  · exact .inl ⟨rfl, rfl⟩
  · exact .inr (.inr (.inr ⟨_, _, _, rfl⟩))
  · obtain ⟨ops, hwait⟩ := waitIrqOnce_eq s
    exact .inr (.inr (.inr ⟨_, ops, _, hwait⟩))

/-- No host operation changes a hardwired register. -/
theorem hostAct_cfg {op : HostOp} {s t : State} (h : hostAct op s = .next t) :
    t.cfgMaxDistinct = s.cfgMaxDistinct ∧ t.cfgBufSize = s.cfgBufSize := by
  obtain ⟨-, rfl⟩ | ⟨w, off, v, -, rfl⟩ | ⟨a, v, -, -, rfl⟩ | ⟨d, ops, reads, rfl⟩ := hostAct_effect h
  · exact ⟨rfl, rfl⟩
  · obtain ⟨hmax, hbuf, -⟩ := csrWrite_frame w off v s
    exact ⟨hmax, hbuf⟩
  · exact ⟨rfl, rfl⟩
  · exact ⟨rfl, rfl⟩

/-- A reset releases the tables; every other host operation leaves them alone. -/
theorem hostAct_tables {op : HostOp} {s t : State} (h : hostAct op s = .next t) :
    (op = .reset ∧ t = hwReset s) ∨ (t.ft = s.ft ∧ t.nodes = s.nodes ∧ t.ct = s.ct) := by
  obtain hreset | ⟨w, off, v, -, rfl⟩ | ⟨a, v, -, -, rfl⟩ | ⟨d, ops, reads, rfl⟩ := hostAct_effect h
  · exact .inl hreset
  · obtain ⟨-, -, hft, hnodes, hct, -⟩ := csrWrite_frame w off v s
    exact .inr ⟨hft, hnodes, hct⟩
  · exact .inr ⟨rfl, rfl, rfl⟩
  · exact .inr ⟨rfl, rfl, rfl⟩

/-! ### The commands -/

/-- A command ends in an error completion, over BUF as it was or scribbled, or in a successful one that changed tables and
BUF only. -/
theorem exec_cases {i : Instr} {s t : State} (h : exec i s = .next t) :
    (∃ e u, (u = s ∨ u = scribbleDest s) ∧ t = raiseErr (targetsOf i) e u)
      ∨ ∃ len aux f ns c m, t = complete len aux { s with ft := f, nodes := ns, ct := c, buf := m } := by
  cases i with
  | nop => exact .inr ⟨0, 0, s.ft, s.nodes, s.ct, s.buf, (Host.Outcome.next.inj h).symm⟩
  | clear => exact .inr ⟨0, 0, none, none, none, s.buf, (Host.Outcome.next.inj h).symm⟩
  | count =>
    obtain ⟨e, -, rfl⟩ | ⟨f, total, -, rfl⟩ := execCount_cases h
    · exact .inl ⟨e, s, .inl rfl, rfl⟩
    · exact .inr ⟨_, _, _, _, _, _, rfl⟩
  | parseft =>
    obtain ⟨e, -, rfl⟩ | ⟨p, f, -, rfl⟩ := execParseft_cases h
    · exact .inl ⟨e, s, .inl rfl, rfl⟩
    · exact .inr ⟨_, _, _, _, _, _, rfl⟩
  | build =>
    obtain ⟨e, -, rfl⟩ | ⟨f, ns, -, -, rfl⟩ := execBuild_cases h
    · exact .inl ⟨e, s, .inl rfl, rfl⟩
    · exact .inr ⟨_, _, _, _, _, _, rfl⟩
  | gencode =>
    obtain ⟨-, rfl⟩ | ⟨ns, -, rfl⟩ := execGencode_cases h
    · exact .inl ⟨_, s, .inl rfl, rfl⟩
    · exact .inr ⟨_, _, _, _, _, _, rfl⟩
  | encode =>
    obtain ⟨e, -, rfl⟩ | ⟨r, -, rfl⟩ := execEncode_cases h
    · exact .inl ⟨e, s, .inl rfl, rfl⟩
    · exact .inr ⟨_, _, _, _, _, _, rfl⟩
  | decode =>
    obtain ⟨e, -, rfl⟩ | ⟨e, -, -, rfl⟩ | ⟨r, -, -, rfl⟩ := execDecode_cases h
    · exact .inl ⟨e, s, .inl rfl, rfl⟩
    · exact .inl ⟨e, _, .inr rfl, rfl⟩
    · exact .inr ⟨_, _, _, _, _, _, rfl⟩

/-- No command changes a hardwired register. -/
theorem exec_cfg {i : Instr} {s t : State} (h : exec i s = .next t) :
    t.cfgMaxDistinct = s.cfgMaxDistinct ∧ t.cfgBufSize = s.cfgBufSize := by
  obtain ⟨e, u, rfl | rfl, rfl⟩ | ⟨len, aux, f, ns, c, m, rfl⟩ := exec_cases h <;> simp

/-- A sequence of two parts that succeeds: both parts do. -/
theorem bind_ok {ε α β : Type} {x : Except ε α} {g : α → Except ε β} {r : β} (h : x >>= g = .ok r) :
    ∃ a, x = .ok a ∧ g a = .ok r := by
  cases x with
  | error e => exact nomatch h
  | ok a => exact ⟨a, rfl, h⟩

theorem encodeCommand_ok {s : State} {r : EncodeResult} (h : encodeCommand s = .ok r) :
    checkRegions s = .ok () ∧ encodeText s.cfgMaxDistinct.toNat s.dstCap.toNat (sourceBytes s) = .ok r := by
  obtain ⟨_, hregions, h⟩ := bind_ok h
  exact ⟨hregions, h⟩

theorem countCommand_ok {s : State} {r : List FtEntry × Nat} (h : countCommand s = .ok r) :
    checkSrc s = .ok () ∧ countText s.cfgMaxDistinct.toNat (sourceBytes s) = .ok r := by
  obtain ⟨_, hsrc, h⟩ := bind_ok h
  exact ⟨hsrc, h⟩

theorem parseCommand_ok {s : State} {r : Nat × List FtEntry} (h : parseCommand s = .ok r) :
    checkSrc s = .ok () ∧ parseArtifact s.cfgMaxDistinct.toNat (sourceBytes s) = .ok r := by
  obtain ⟨_, hsrc, h⟩ := bind_ok h
  exact ⟨hsrc, h⟩

/-! ### Properties every step keeps -/

/-- What it takes for a step to keep a property: it does not look at the host's program or the schedule, and each host
operation, each command in progress and the completion of an illegal word keep it. -/
structure KeptByParts (P : State → Prop) : Prop where
  program : ∀ s ops sch, P s → P { s with hostOps := ops, schedule := sch }
  host : ∀ op s t, P s → hostAct op s = .next t → P t
  command : ∀ i s t, s.phase = .busy → P s → exec i s = .next t → P t
  illegal : ∀ e s, s.phase = .busy → P s → P (illegalCommand e s)

/-- Taking an entry off the schedule changes nothing else. -/
theorem useSchedule_eq (s : State) :
    useSchedule s = { s with schedule := if s.phase = .busy then s.schedule.tail else s.schedule } := by
  unfold useSchedule
  split
  · rw [if_neg (by simp_all)]
  · rw [if_pos ‹_›]

/-- A property that the parts of a step keep is one that every step keeps. -/
theorem KeptByParts.step {P : State → Prop} (hP : KeptByParts P) {s t : State} (hs : P s) (h : step s = .next t) :
    P t := by
  have hs' := hP.program s s.hostOps (if s.phase = .busy then s.schedule.tail else s.schedule) hs
  obtain ⟨hbusy, -, h⟩ | ⟨op, rest, -, -, h⟩ | ⟨-, -, rfl⟩ := step_cases h
  · obtain ⟨i, -, h⟩ | ⟨e, -, rfl⟩ := coreStep_cases h
    · exact hP.command i _ t (by simpa using hbusy) (useSchedule_eq s ▸ hs') h
    · exact hP.illegal e _ (by simpa using hbusy) (useSchedule_eq s ▸ hs')
  · rw [useSchedule_eq] at h
    exact hP.host op _ t (hP.program s rest _ hs) h
  · exact useSchedule_eq s ▸ hs'

/-! ### The hardwired registers -/

/-- No step changes a hardwired register. -/
theorem step_cfg {s t : State} (h : step s = .next t) :
    t.cfgMaxDistinct = s.cfgMaxDistinct ∧ t.cfgBufSize = s.cfgBufSize := by
  have parts : KeptByParts fun u => u.cfgMaxDistinct = s.cfgMaxDistinct ∧ u.cfgBufSize = s.cfgBufSize := {
    program := fun _ _ _ hu => hu
    host := fun _ _ _ hu h => ⟨(hostAct_cfg h).1.trans hu.1, (hostAct_cfg h).2.trans hu.2⟩
    command := fun _ _ _ _ hu h => ⟨(exec_cfg h).1.trans hu.1, (exec_cfg h).2.trans hu.2⟩
    illegal := fun _ _ _ hu => hu }
  exact parts.step ⟨rfl, rfl⟩ h

end Sys2Proof.Machine
end

section
/-! PROOFS. The registers and the step: what a read returns, what a reset leaves, what a step runs. -/

namespace Sys2Proof.Machine

/-! ### Reading a listed CSR (40_host_interface.md R401) -/

section
variable {s : State} {off : BitVec 8} {c : Csr}

theorem csrReadValue_idle (hp : s.phase = .idle) (hok : csrAccessOk .word off = true) (hc : csrAt off = some c) :
    csrReadValue s .word off = csrIdleValue s c := by
  simp [csrReadValue, hok, hc, hp]

theorem csrReadValue_busy (hp : s.phase = .busy) (hok : csrAccessOk .word off = true) (hc : csrAt off = some c) :
    csrReadValue s .word off = csrBusyValue s c := by
  simp [csrReadValue, hok, hc, hp]

theorem csrBusyValue_exact (s : State) (hopen : csrOpenWhileBusy c = false) : csrBusyValue s c = csrIdleValue s c := by
  cases c <;> simp_all [csrOpenWhileBusy, csrBusyValue]

/-- A CSR that R142 does not list reads its value in both phases. -/
theorem csrReadValue_exact (s : State) (hok : csrAccessOk .word off = true) (hc : csrAt off = some c)
    (hopen : csrOpenWhileBusy c = false) : csrReadValue s .word off = csrIdleValue s c := by
  cases hp : s.phase with
  | idle => exact csrReadValue_idle hp hok hc
  | busy => exact (csrReadValue_busy hp hok hc).trans (csrBusyValue_exact s hopen)

end

/-- Settles O11: the four registers read their values in both phases, no arm of a write sets them, and the last clause is
`step_cfg`. -/
theorem hardwiredRegisters : Obligations.HardwiredRegisters := by
  unfold Obligations.HardwiredRegisters
  intro s
  refine ⟨csrReadValue_exact s (c := .id) rfl rfl rfl, csrReadValue_exact s (c := .version) rfl rfl rfl,
    csrReadValue_exact s (c := .cfgMaxDistinct) rfl rfl rfl, csrReadValue_exact s (c := .cfgBufSize) rfl rfl rfl, ?_,
    fun t h => step_cfg h⟩
  intro v off hoff
  fin_cases hoff <;> rfl

/-! ### STATUS, bit by bit (10_state.md R114) -/

theorem getLsbD_bit (b : Bool) (k i : Nat) (hk : k < 32) : (bit b k).getLsbD i = (b && decide (i = k)) := by
  cases b with
  | false => simp [bit]
  | true =>
    simp only [bit, if_true, BitVec.getLsbD_shiftLeft, BitVec.getLsbD_one, Bool.true_and]
    grind

theorem statusExact_getLsbD (s : State) (i : Nat) :
    (statusExact s).getLsbD i = (busyFlag s && decide (i = 0) || s.done && decide (i = 1)
      || errFlag s && decide (i = 2) || s.dropped && decide (i = 6)) := by
  simp [statusExact, getLsbD_bit]

theorem statusValid_getLsbD (s : State) (i : Nat) :
    (statusValid s).getLsbD i
      = (ftValid s && decide (i = 3) || treeValid s && decide (i = 4) || ctValid s && decide (i = 5)) := by
  simp [statusValid, getLsbD_bit]

/-- The mask of the valid flags has bits 5:3. -/
theorem validMask_getLsbD (i : Nat) : (0x38#32).getLsbD i = decide (3 ≤ i ∧ i ≤ 5) := by
  rcases Nat.lt_or_ge i 6 with h | h
  · interval_cases i <;> rfl
  · have hlt : (0x38 : Nat) < 2 ^ i := Nat.lt_of_lt_of_le (by decide) (Nat.pow_le_pow_right (by decide) h)
    rw [BitVec.getLsbD_ofNat, Nat.testBit_lt_two_pow hlt]
    simp
    omega

/-- STATUS reads the exact bits, and bits 5:3 of some word: the valid flags while IDLE. -/
theorem csrReadValue_status (s : State) : ∃ v : Word,
    csrReadValue s .word 0x18#8 = statusExact s ||| (v &&& 0x38#32) ∧ (s.phase = .idle → v = statusValid s) := by
  cases hp : s.phase with
  | idle =>
    refine ⟨statusValid s, ?_, fun _ => rfl⟩
    rw [csrReadValue_idle (c := .status) hp rfl rfl]
    have hmask : statusValid s &&& 0x38#32 = statusValid s := by
      unfold statusValid
      cases ftValid s <;> cases treeValid s <;> cases ctValid s <;> rfl
    rw [hmask]
    rfl
  | busy => exact ⟨Config.freeWord s.draws, csrReadValue_busy (c := .status) hp rfl rfl, nofun⟩

theorem csrAt_unlisted {off : BitVec 8} (h : 0x68 ≤ off.toNat) : csrAt off = none := by
  unfold csrAt
  split <;> simp_all

/-- Settles O12: STATUS by `csrReadValue_status`, every other register by `csrReadValue_exact`. -/
theorem statusReadsFields : Obligations.StatusReadsFields := by
  unfold Obligations.StatusReadsFields
  intro s
  obtain ⟨v, hstatus, hvalid⟩ := csrReadValue_status s
  simp only [hstatus, BitVec.getLsbD_or, BitVec.getLsbD_and, statusExact_getLsbD, validMask_getLsbD]
  refine ⟨by simp [busyFlag], by simp, by simp [errFlag], by simp, fun i hi => ?_, fun hp => ?_,
    csrReadValue_exact s (c := .ctrl) rfl rfl rfl, csrReadValue_exact s (c := .cmd) rfl rfl rfl,
    csrReadValue_exact s (c := .errCode) rfl rfl rfl, csrReadValue_exact s (c := .errSub) rfl rfl rfl,
    csrReadValue_exact s (c := .errInfo) rfl rfl rfl,
    csrReadValue_exact s (c := .srcAddr) rfl rfl rfl, csrReadValue_exact s (c := .srcLen) rfl rfl rfl,
    csrReadValue_exact s (c := .dstAddr) rfl rfl rfl, csrReadValue_exact s (c := .dstCap) rfl rfl rfl,
    csrReadValue_exact s (c := .resultLen) rfl rfl rfl, csrReadValue_exact s (c := .resultAux) rfl rfl rfl,
    csrReadValue_exact s (c := .tblSel) rfl rfl rfl, csrReadValue_exact s (c := .tblIdx) rfl rfl rfl,
    fun off hoff hlarge => ?_⟩
  · simp
    omega
  · simp only [hvalid hp, statusValid_getLsbD, ftValid, treeValid, ctValid]
    simp
  · simp [csrReadValue, csrAccessOk, hoff, csrAt_unlisted hlarge]

/-- Settles O13: by the phase, and on an idle block by the valid flags. -/
theorem countRegistersRead : Obligations.CountRegistersRead := by
  unfold Obligations.CountRegistersRead
  intro s
  refine ⟨fun hp => ?_, fun hp off hoff => ?_, fun v off hoff => ?_⟩
  · rw [csrReadValue_idle (c := .ftCount) hp rfl rfl, csrReadValue_idle (c := .nodeCount) hp rfl rfl,
      csrReadValue_idle (c := .rootIdx) hp rfl rfl]
    simp only [csrIdleValue, nodeCount, rootIdx, treeValid]
    refine ⟨fun hf => ?_, fun f hf => ?_, fun hn => ?_, fun f ns hf hn => ?_⟩
    · simp [ftCount, hf]
    · simp [ftCount, hf]
    · simp [hn]
    · simp +contextual [ftCount, hf, hn]
  · fin_cases hoff
    · exact csrReadValue_busy (c := .ftCount) hp rfl rfl
    · exact csrReadValue_busy (c := .nodeCount) hp rfl rfl
    · exact csrReadValue_busy (c := .rootIdx) hp rfl rfl
  · fin_cases hoff <;> rfl

/-! ### Reset (10_state.md R150) -/

theorem readByte_congr {s t : State} (hbuf : t.buf = s.buf) (hpower : t.powerOn = s.powerOn) (a : Nat) :
    readByte t a = readByte s a := by
  simp [readByte, hbuf, hpower]

/-- A reset leaves every byte but those of the destination region of a command it ends (70_reset_and_hazards.md R901). -/
theorem readByte_hwReset (s : State) (a : Nat) (h : ¬ (runningWritesDest s = true ∧ inDest s a = true)) :
    readByte (hwReset s) a = readByte s a := by
  cases hw : runningWritesDest s with
  | true =>
    have hd : inDest s a = false := by simpa [hw] using h
    rw [← readByte_scribbleDest_outside s a hd]
    exact readByte_congr (t := hwReset s) (s := scribbleDest s) (by simp [hwReset_buf, hw]) rfl a
  | false => exact readByte_congr (t := hwReset s) (s := s) (by simp [hwReset_buf, hw]) rfl a

theorem statusWord_hwReset (s : State) : statusWord (hwReset s) = 0 := by
  simp [statusWord, statusExact, statusValid, busyFlag, errFlag, ftValid, treeValid, ctValid, bit]

/-- Settles O17: the next state is `hwReset s`, whose CSRs and tables are those of `State.resetWith`. -/
theorem resetPutsValues : Obligations.ResetPutsValues := by
  unfold Obligations.ResetPutsValues
  intro s
  refine ⟨hwReset s, rfl, rfl, rfl, rfl, rfl, rfl, rfl, rfl, rfl, rfl, rfl, rfl, rfl, rfl, rfl, rfl, rfl, rfl, rfl, rfl,
    rfl, ?_, rfl, rfl, readByte_hwReset s⟩
  exact (csrReadValue_idle (c := .status) rfl rfl rfl).trans (statusWord_hwReset s)

/-! ### The step (10_state.md R100) -/

theorem nextAgent_placeCommand (w : Word) (s : State) : nextAgent (placeCommand w s) = .core := rfl

/-- The core moves only while BUSY. -/
theorem busy_of_nextAgent_core {s : State} (h : nextAgent s = .core) : s.phase = .busy := by
  cases hp : s.phase with
  | busy => rfl
  | idle => simp [nextAgent, hp] at h

theorem step_core {s : State} (h : nextAgent s = .core) : step s = coreStep { s with schedule := s.schedule.tail } := by
  simp [step, h, useSchedule_busy s (busy_of_nextAgent_core h)]

theorem coreStep_of_decodeWord {s : State} {i : Instr} (h : decodeWord s.curOp = .ok i) : coreStep s = exec i s := by
  simp [coreStep, h]

theorem decodeWord_encodeWord (i : Instr) : decodeWord (encodeWord i) = .ok i := by
  cases i <;> rfl

theorem tableWord_toNat (w : Word) : tableWord 32 w.toNat = w := by
  simp [tableWord, Nat.mod_eq_of_lt w.isLt]

/-- Settles O4: by the agent that moves; a placed command is the core's to run. -/
theorem stepRunsDecodedCommand : Obligations.StepRunsDecodedCommand := by
  unfold Obligations.StepRunsDecodedCommand
  refine ⟨fun s h => step_core h, fun s i h hi => (step_core h).trans (coreStep_of_decodeWord hi),
    fun s op rest h hops => ?_, fun s hp hops => ?_, fun s i => ?_⟩
  · simp [step, h, hostStep, hops, useSchedule_eq]
  · simp [step, nextAgent, hp, hostStep, hops]
  · rw [State.withFetchWord, tableWord_toNat, step_core (nextAgent_placeCommand _ s)]
    exact coreStep_of_decodeWord (decodeWord_encodeWord i)

end Sys2Proof.Machine
end

section
/-! PROOFS. The invariants of the tables' valid flags and of the report, and the state after reset. -/

namespace Sys2Proof.Machine

/-! ### The tables follow from one another (10_state.md R137) -/

theorem TablesInv_of_none {s : State} (hn : s.nodes = none) (hc : s.ct = none) : TablesInv s := by
  simp [TablesInv, hn, hc]

theorem TablesInv_congr {s t : State} (hs : TablesInv s) (hf : t.ft = s.ft) (hn : t.nodes = s.nodes)
    (hc : t.ct = s.ct) : TablesInv t := by
  simpa [TablesInv, hf, hn, hc] using hs

/-- The tree of the FT, with its codes or with none. -/
theorem TablesInv_of_tree {s : State} {f : List FtEntry} {ns : List Node} (hf : s.ft = some f)
    (hn : s.nodes = some ns) (ht : buildTree f = .ok ns) (hc : ∀ c, s.ct = some c → c = genCodes ns) :
    TablesInv s := by
  constructor
  · intro ns' hns'
    obtain rfl := Option.some.inj (hn.symm.trans hns')
    exact ⟨f, hf, ht⟩
  · exact fun c h => ⟨ns, hn, hc c h⟩

theorem exec_keeps_tables (i : Instr) (s t : State) (hs : TablesInv s) (h : exec i s = .next t) : TablesInv t := by
  cases i with
  | nop =>
    obtain rfl := Host.Outcome.next.inj h
    exact TablesInv_congr hs rfl rfl rfl
  | clear =>
    obtain rfl := Host.Outcome.next.inj h
    exact TablesInv_of_none rfl rfl
  | count => obtain ⟨e, -, rfl⟩ | ⟨f, total, -, rfl⟩ := execCount_cases h <;> exact TablesInv_of_none rfl rfl
  | parseft => obtain ⟨e, -, rfl⟩ | ⟨p, f, -, rfl⟩ := execParseft_cases h <;> exact TablesInv_of_none rfl rfl
  | build =>
    obtain ⟨e, -, rfl⟩ | ⟨f, ns, hf, ht, rfl⟩ := execBuild_cases h
    · exact TablesInv_of_none rfl rfl
    · exact TablesInv_of_tree hf rfl ht (by simp)
  | gencode =>
    obtain ⟨hn, rfl⟩ | ⟨ns, hn, rfl⟩ := execGencode_cases h
    · exact TablesInv_of_none hn rfl
    · obtain ⟨f, hf, ht⟩ := hs.1 ns hn
      exact TablesInv_of_tree hf hn ht fun c hc => (Option.some.inj hc).symm
  | encode =>
    obtain ⟨e, -, rfl⟩ | ⟨r, hr, rfl⟩ := execEncode_cases h
    · exact TablesInv_of_none rfl rfl
    · obtain ⟨-, ht, hct, -⟩ := encodeText_ok (encodeCommand_ok hr).2
      exact TablesInv_of_tree rfl rfl ht fun c hc => (Option.some.inj hc).symm.trans hct
  | decode =>
    obtain ⟨e, -, rfl⟩ | ⟨e, -, -, rfl⟩ | ⟨r, -, hr, rfl⟩ := execDecode_cases h
    · exact TablesInv_of_none rfl rfl
    · exact TablesInv_of_none rfl rfl
    · obtain ⟨p, bitlen, packed, -, -, ht, -⟩ := decodeArtifact_ok hr
      exact TablesInv_of_tree rfl rfl ht (by simp)

theorem hostAct_keeps_tables (op : HostOp) (s t : State) (hs : TablesInv s) (h : hostAct op s = .next t) :
    TablesInv t := by
  obtain ⟨-, rfl⟩ | ⟨hf, hn, hc⟩ := hostAct_tables h
  · exact TablesInv_of_none rfl rfl
  · exact TablesInv_congr hs hf hn hc

/-- Settles O57: each command leaves a tree of its FT and codes of that tree, or drops what depends on a table it drops. -/
theorem stepKeepsTables : Obligations.StepKeepsTables := by
  unfold Obligations.StepKeepsTables
  have parts : KeptByParts TablesInv := {
    program := fun _ _ _ hs => hs
    host := hostAct_keeps_tables
    command := fun i s t _ => exec_keeps_tables i s t
    illegal := fun _ _ _ hs => hs }
  exact fun s t hs h => parts.step hs h

/-! ### The report (60_exceptions.md R800, R801) -/

theorem ErrKind.code_bounds (k : ErrKind) : k.code ≠ 0#32 ∧ k.code.toNat ≤ 10 := by
  cases k <;> decide

theorem raiseErr_report (x : Targets) (e : Err) (s : State) :
    ReportInv (raiseErr x e s) ∧ BusyInv (raiseErr x e s) := by
  obtain ⟨hne, hle⟩ := e.kind.code_bounds
  simp [ReportInv, BusyInv, hne, hle]

/-- A completion that changes nothing else of a clear report keeps it well formed. -/
theorem complete_report {len aux : Word} {s : State} (h0 : s.errCode = 0) (hs : ReportInv s) :
    ReportInv (complete len aux s) ∧ BusyInv (complete len aux s) := by
  obtain ⟨-, hclear, -⟩ := hs
  simp [ReportInv, BusyInv, h0, hclear h0]

theorem exec_keeps_report (i : Instr) (s t : State) (hbusy : s.phase = .busy) (hs : ReportInv s ∧ BusyInv s)
    (h : exec i s = .next t) : ReportInv t ∧ BusyInv t := by
  obtain ⟨e, u, -, rfl⟩ | ⟨len, aux, f, ns, c, m, rfl⟩ := exec_cases h
  · exact raiseErr_report _ e u
  · obtain ⟨-, hcode, -⟩ := hs.2 hbusy
    exact complete_report hcode hs.1

/-- A CSR write that starts no command leaves PHASE, the report and the results, and sets no DONE. -/
theorem csrWrite_report (w : AccessWidth) (off : BitVec 8) (v : Word) (s : State) :
    csrWrite w off v s = accept v s
      ∨ ((csrWrite w off v s).phase = s.phase ∧ (csrWrite w off v s).errCode = s.errCode
        ∧ (csrWrite w off v s).errSub = s.errSub ∧ (csrWrite w off v s).errInfo = s.errInfo
        ∧ (csrWrite w off v s).resultLen = s.resultLen ∧ (csrWrite w off v s).resultAux = s.resultAux
        ∧ (s.done = false → (csrWrite w off v s).done = false)) := by
  rcases csrWrite_cases w off v s with h | ⟨-, h⟩ | ⟨-, -, h⟩ | h | ⟨-, h | h | h | h⟩ | h | h | h <;>
    simp +contextual [h]

theorem hostAct_keeps_report (op : HostOp) (s t : State) (hs : ReportInv s ∧ BusyInv s)
    (h : hostAct op s = .next t) : ReportInv t ∧ BusyInv t := by
  obtain ⟨-, rfl⟩ | ⟨w, off, v, -, rfl⟩ | ⟨a, v, -, -, rfl⟩ | ⟨d, ops, reads, rfl⟩ := hostAct_effect h
  · simp [ReportInv, BusyInv]
  · rcases csrWrite_report w off v s with haccept | ⟨hphase, hcode, hsub, hinfo, hlen, haux, hdone⟩
    · simp [haccept, ReportInv, BusyInv]
    · simp only [ReportInv, BusyInv, hphase, hcode, hsub, hinfo, hlen, haux] at hs ⊢
      obtain ⟨hreport, hbusy⟩ := hs
      refine ⟨hreport, fun hp => ?_⟩
      obtain ⟨hd, hrest⟩ := hbusy hp
      exact ⟨hdone hd, hrest⟩
  · exact hs
  · exact hs

/-- Settles O58: the two invariants are kept together, for a success leaves a report that acceptance cleared. -/
theorem stepKeepsReport : Obligations.StepKeepsReport := by
  unfold Obligations.StepKeepsReport
  have parts : KeptByParts fun s => ReportInv s ∧ BusyInv s := {
    program := fun _ _ _ hs => hs
    host := hostAct_keeps_report
    command := exec_keeps_report
    illegal := fun e s _ _ => raiseErr_report _ _ s }
  exact fun s t hr hb h => parts.step ⟨hr, hb⟩ h

/-! ### The state after reset -/

/-- Settles O59: after reset no table is present, BUF lists no byte, and the report is clear. -/
theorem resetIsSafe : Obligations.ResetIsSafe := by
  unfold Obligations.ResetIsSafe
  have safe (m b : Word) : Safe (State.resetWith m b) :=
    ⟨⟨rfl, rfl⟩, by simp [FtInv, State.resetWith], TablesInv_of_none rfl rfl, by simp [ReportInv, State.resetWith],
      by simp [BusyInv, State.resetWith]⟩
  exact ⟨safe, safe _ _⟩

end Sys2Proof.Machine
end

section
/-! PROOFS. The invariant of the frequency table. -/

namespace Sys2Proof.Machine

/-! ### The entries of a frequency table (10_state.md R130, R131) -/

/-- The neighbour-by-neighbour check is the order of all pairs. -/
theorem ftRises_iff (f : List FtEntry) :
    ftRises f = true ↔ f.Pairwise (fun a b => a.sym.toNat < b.sym.toNat) := by
  rw [← List.pairwise_map (f := fun e : FtEntry => e.sym.toNat) (R := (· < ·)), ← List.isChain_iff_pairwise]
  induction f using ftRises.induct with
  | case1 => simp [ftRises]
  | case2 => simp [ftRises]
  | case3 a b f ih => simp_all [ftRises]

theorem ftWf_iff (m : Nat) (f : List FtEntry) :
    ftWf m f = true ↔ ftRises f = true ∧ (∀ e ∈ f, entryOk e = true) ∧ f.length ≤ m := by
  simp [ftWf, and_assoc]

theorem ftLookup_eq_none {v : Sym} {f : List FtEntry} (h : ftLookup v f = none) : ∀ e ∈ f, e.sym ≠ v := by
  induction f with
  | nil => simp
  | cons e f ih =>
    unfold ftLookup at h
    split at h
    · exact nomatch h
    · exact List.forall_mem_cons.2 ⟨‹_›, ih h⟩

theorem mem_of_ftLookup {v : Sym} {c : Word} {f : List FtEntry} (h : ftLookup v f = some c) :
    (⟨v, c⟩ : FtEntry) ∈ f := by
  induction f with
  | nil => exact nomatch h
  | cons e f ih =>
    unfold ftLookup at h
    split at h
    · obtain rfl := Option.some.inj h
      subst_vars
      exact List.mem_cons_self
    · exact List.mem_cons_of_mem e (ih h)

/-- Setting a symbol the table does not hold adds one entry. -/
theorem ftSet_perm_of_absent {v : Sym} {f : List FtEntry} (c : Word) (h : ∀ e ∈ f, e.sym ≠ v) :
    (ftSet v c f).Perm (⟨v, c⟩ :: f) := by
  induction f with
  | nil => exact .refl _
  | cons e f ih =>
    obtain ⟨he, hf⟩ := List.forall_mem_cons.1 h
    unfold ftSet
    split
    · exact .refl _
    · rw [if_neg (Ne.symm he)]
      exact ((ih hf).cons e).trans (.swap _ _ _)

/-- Setting a symbol the table holds replaces its entry. -/
theorem ftSet_of_present {v : Sym} {c : Word} {f : List FtEntry} (c' : Word) (hr : ftRises f = true)
    (h : (⟨v, c⟩ : FtEntry) ∈ f) : ∃ l r, f = l ++ ⟨v, c⟩ :: r ∧ ftSet v c' f = l ++ ⟨v, c'⟩ :: r := by
  rw [ftRises_iff] at hr
  induction f with
  | nil => exact absurd h List.not_mem_nil
  | cons e f ih =>
    obtain ⟨hlt, hr'⟩ := List.pairwise_cons.1 hr
    rcases List.mem_cons.1 h with rfl | hmem
    · exact ⟨[], f, rfl, by simp [ftSet]⟩
    · have hev : e.sym.toNat < v.toNat := hlt _ hmem
      have hne : v ≠ e.sym := fun heq => by simp [heq] at hev
      obtain ⟨l, r, hf, hset⟩ := ih hr' hmem
      exact ⟨e :: l, r, by rw [hf]; rfl, by simp [ftSet, Nat.not_lt.2 hev.le, hne, hset]⟩

theorem mem_ftSet {v : Sym} {c : Word} {f : List FtEntry} {x : FtEntry} (h : x ∈ ftSet v c f) :
    x = ⟨v, c⟩ ∨ x ∈ f := by
  induction f with
  | nil => simpa [ftSet] using h
  | cons e f ih =>
    unfold ftSet at h
    split at h
    · exact List.mem_cons.1 h
    · split at h
      · exact (List.mem_cons.1 h).imp_right (List.mem_cons_of_mem e)
      · rcases List.mem_cons.1 h with rfl | h
        · exact .inr List.mem_cons_self
        · exact (ih h).imp_right (List.mem_cons_of_mem e)

theorem ftRises_ftSet (v : Sym) (c : Word) {f : List FtEntry} (hr : ftRises f = true) :
    ftRises (ftSet v c f) = true := by
  rw [ftRises_iff] at hr ⊢
  induction f with
  | nil => simp [ftSet]
  | cons e f ih =>
    obtain ⟨hlt, hr'⟩ := List.pairwise_cons.1 hr
    unfold ftSet
    split
    · rename_i hve
      exact List.pairwise_cons.2 ⟨List.forall_mem_cons.2 ⟨hve, fun x hx => hve.trans (hlt x hx)⟩, hr⟩
    · split
      · subst_vars
        exact List.pairwise_cons.2 ⟨hlt, hr'⟩
      · rename_i hve hne
        have hev : e.sym.toNat < v.toNat :=
          Nat.lt_of_le_of_ne (Nat.not_lt.1 hve) fun heq => hne (BitVec.eq_of_toNat_eq heq).symm
        refine List.pairwise_cons.2 ⟨fun x hx => ?_, ih hr'⟩
        rcases mem_ftSet hx with rfl | hx
        · exact hev
        · exact hlt x hx

/-- A table stays well formed when a supported symbol gets a count of at least 1, if there is room for it. -/
theorem ftWf_ftSet {m : Nat} {v : Sym} {c : Word} {f : List FtEntry} (hf : ftWf m f = true) (hv : symOk v = true)
    (hc : c ≠ 0#32) (hroom : ftLookup v f = none → f.length ≠ m) : ftWf m (ftSet v c f) = true := by
  obtain ⟨hr, hall, hlen⟩ := (ftWf_iff m f).1 hf
  refine (ftWf_iff m _).2 ⟨ftRises_ftSet v c hr, fun x hx => ?_, ?_⟩
  · rcases mem_ftSet hx with rfl | hx
    · simp [entryOk, hv, hc]
    · exact hall x hx
  · cases hl : ftLookup v f with
    | none =>
      have hlen' := (ftSet_perm_of_absent c (ftLookup_eq_none hl)).length_eq
      have hne := hroom hl
      rw [List.length_cons] at hlen'
      omega
    | some c' =>
      obtain ⟨l, r, hf', hset⟩ := ftSet_of_present c hr (mem_of_ftLookup hl)
      have hsame : (ftSet v c f).length = f.length := by rw [hset, hf']; simp
      omega

/-! ### UTF-8: what is read is a scalar value (30_encoding.md R320) -/

theorem toNat_append_eq_add {n m : Nat} (x : BitVec n) (y : BitVec m) :
    (x ++ y).toNat = x.toNat * 2 ^ m + y.toNat := by
  rw [BitVec.toNat_append, ← Nat.shiftLeft_add_eq_or_of_lt y.isLt, Nat.shiftLeft_eq]

section
variable (b0 b1 b2 b3 : Byte) (bs : List Byte)

theorem utf8Value_one : (utf8Value 1 (b0 :: bs)).toNat = b0.toNat := by
  have := b0.isLt
  simp only [utf8Value, BitVec.toNat_setWidth]
  omega

theorem utf8Value_two : (utf8Value 2 (b0 :: b1 :: bs)).toNat = b0.toNat % 32 * 64 + b1.toNat % 64 := by
  simp only [utf8Value, BitVec.toNat_setWidth, toNat_append_eq_add, BitVec.extractLsb'_toNat, Nat.shiftRight_zero]
  omega

theorem utf8Value_three : (utf8Value 3 (b0 :: b1 :: b2 :: bs)).toNat
    = b0.toNat % 16 * 4096 + b1.toNat % 64 * 64 + b2.toNat % 64 := by
  simp only [utf8Value, BitVec.toNat_setWidth, toNat_append_eq_add, BitVec.extractLsb'_toNat, Nat.shiftRight_zero]
  omega

theorem utf8Value_four : (utf8Value 4 (b0 :: b1 :: b2 :: b3 :: bs)).toNat
    = b0.toNat % 8 * 262144 + b1.toNat % 64 * 4096 + b2.toNat % 64 * 64 + b3.toNat % 64 := by
  simp only [utf8Value, toNat_append_eq_add, BitVec.extractLsb'_toNat, Nat.shiftRight_zero]
  omega

end

theorem rowMatches_cons {lo hi : Nat} {row : List (Nat × Nat)} {bs : List Byte}
    (h : rowMatches ((lo, hi) :: row) bs = true) :
    ∃ b rest, bs = b :: rest ∧ lo ≤ b.toNat ∧ b.toNat ≤ hi ∧ rowMatches row rest = true := by
  cases bs with
  | nil => simp [rowMatches] at h
  | cons b rest =>
    simp only [rowMatches, Bool.and_eq_true, decide_eq_true_eq] at h
    obtain ⟨⟨hlo, hhi⟩, hrest⟩ := h
    exact ⟨b, rest, rfl, hlo, hhi, hrest⟩

theorem utf8At_row {bs : List Byte} {v : Sym} {len : Nat} (h : utf8At bs = some (v, len)) :
    ∃ row ∈ utf8Rows, rowMatches row bs = true ∧ v = utf8Value row.length bs ∧ len = row.length := by
  unfold utf8At at h
  split at h
  · rename_i row hrow
    obtain ⟨rfl, rfl⟩ := Prod.mk.inj (Option.some.inj h)
    exact ⟨row, List.mem_of_find?_eq_some hrow, by simpa using List.find?_some hrow, rfl, rfl⟩
  · exact nomatch h

theorem isScalar_iff (v : Sym) :
    isScalar v = true ↔ v.toNat < 0xD800 ∨ (0xDFFF < v.toNat ∧ v.toNat ≤ 0x10FFFF) := by
  simp [isScalar]

/-- What is read is a scalar value, for a surrogate or a value above U+10FFFF matches no row of R320, and U+0000 is read
from a zero byte only. -/
theorem utf8At_value {bs : List Byte} {v : Sym} {len : Nat} (h : utf8At bs = some (v, len)) :
    isScalar v = true ∧ (v.toNat = 0 → ∃ rest, bs = 0#8 :: rest) := by
  suffices hs : isScalar v = true ∧ (v.toNat = 0 → ∃ b rest, bs = b :: rest ∧ b.toNat = 0) by
    refine ⟨hs.1, fun hv => ?_⟩
    obtain ⟨b, rest, rfl, hb⟩ := hs.2 hv
    exact ⟨rest, congrArg (· :: rest) (BitVec.eq_of_toNat_eq hb)⟩
  obtain ⟨row, hrow, hmatch, rfl, -⟩ := utf8At_row h
  rw [isScalar_iff]
  simp only [utf8Rows, List.mem_cons, List.not_mem_nil, or_false] at hrow
  rcases hrow with rfl | rfl | rfl | rfl | rfl | rfl | rfl | rfl | rfl
  · obtain ⟨b0, bs, rfl, hlo, hhi, -⟩ := rowMatches_cons hmatch
    have hv := utf8Value_one b0 bs
    exact ⟨.inl (Nat.lt_of_le_of_lt (hv.trans_le hhi) (by decide)), fun h0 => ⟨b0, bs, rfl, hv.symm.trans h0⟩⟩
  · obtain ⟨b0, bs, rfl, hlo0, hhi0, hmatch⟩ := rowMatches_cons hmatch
    obtain ⟨b1, bs, rfl, hlo1, hhi1, -⟩ := rowMatches_cons hmatch
    have hv := utf8Value_two b0 b1 bs
    simp only [List.length_cons, List.length_nil, hv]
    omega
  iterate 4
    · obtain ⟨b0, bs, rfl, hlo0, hhi0, hmatch⟩ := rowMatches_cons hmatch
      obtain ⟨b1, bs, rfl, hlo1, hhi1, hmatch⟩ := rowMatches_cons hmatch
      obtain ⟨b2, bs, rfl, hlo2, hhi2, -⟩ := rowMatches_cons hmatch
      have hv := utf8Value_three b0 b1 b2 bs
      simp only [List.length_cons, List.length_nil, hv]
      omega
  iterate 3
    · obtain ⟨b0, bs, rfl, hlo0, hhi0, hmatch⟩ := rowMatches_cons hmatch
      obtain ⟨b1, bs, rfl, hlo1, hhi1, hmatch⟩ := rowMatches_cons hmatch
      obtain ⟨b2, bs, rfl, hlo2, hhi2, hmatch⟩ := rowMatches_cons hmatch
      obtain ⟨b3, bs, rfl, hlo3, hhi3, -⟩ := rowMatches_cons hmatch
      have hv := utf8Value_four b0 b1 b2 b3 bs
      simp only [List.length_cons, List.length_nil, hv]
      omega

/-! ### COUNT fills a frequency table (42_frequency_counter.md R500, R501) -/

theorem textSymbols_scalar {skip o : Nat} {bs : List Byte} {p : Nat} {v : Sym}
    (h : (p, some v) ∈ textSymbols skip o bs) : isScalar v = true := by
  induction skip, o, bs using textSymbols.induct with
  | case1 => exact nomatch h
  | case2 o skip b bs ih => exact ih h
  | case3 o b bs v' len hat ih =>
    rw [textSymbols, hat] at h
    rcases List.mem_cons.1 h with heq | h
    · cases heq
      exact (utf8At_value hat).1
    · exact ih h
  | case4 o b bs hat =>
    rw [textSymbols, hat] at h
    simp at h

/-- One symbol of a count that succeeds: it is a new symbol that fits, or one whose count does not overflow. -/
theorem countLoop_cons_ok {m o total : Nat} {x : Option Sym} {rest : List (Nat × Option Sym)} {f : List FtEntry}
    {r : List FtEntry × Nat} (h : countLoop m ((o, x) :: rest) f total = .ok r) :
    ∃ v, x = some v ∧ v ≠ 0 ∧
      ((ftLookup v f = none ∧ f.length ≠ m ∧ countLoop m rest (ftSet v 1 f) (total + 1) = .ok r)
        ∨ ∃ c, ftLookup v f = some c ∧ c.toNat ≠ maxU32
            ∧ countLoop m rest (ftSet v (c + 1) f) (total + 1) = .ok r) := by
  cases x with
  | none => exact nomatch h
  | some v =>
    unfold countLoop at h
    split at h
    · exact nomatch h
    · refine ⟨v, rfl, ‹_›, ?_⟩
      split at h
      · split at h
        · exact nomatch h
        · exact .inl ⟨‹_›, ‹_›, h⟩
      · split at h
        · exact nomatch h
        · exact .inr ⟨_, ‹_›, ‹_›, h⟩

theorem succ_ne_zero_of_ne_maxU32 {c : Word} (h : c.toNat ≠ maxU32) : c + 1 ≠ 0#32 := by
  have := c.isLt
  unfold maxU32 at h
  bv_omega

theorem countLoop_ftWf {m : Nat} {syms : List (Nat × Option Sym)} {f : List FtEntry} {total : Nat}
    {r : List FtEntry × Nat} (hsyms : ∀ p v, (p, some v) ∈ syms → isScalar v = true) (hf : ftWf m f = true)
    (h : countLoop m syms f total = .ok r) : ftWf m r.1 = true := by
  induction syms generalizing f total with
  | nil =>
    obtain rfl := Except.ok.inj h
    exact hf
  | cons x syms ih =>
    obtain ⟨o, x⟩ := x
    obtain ⟨v, rfl, hv, hcase⟩ := countLoop_cons_ok h
    have hrest := fun p v hmem => hsyms p v (List.mem_cons_of_mem _ hmem)
    have hok : symOk v = true := by simpa [symOk, hsyms o v List.mem_cons_self] using hv
    obtain ⟨-, hroom, h⟩ | ⟨c, hl, hc, h⟩ := hcase
    · exact ih hrest (ftWf_ftSet hf hok (by decide) fun _ => hroom) h
    · exact ih hrest (ftWf_ftSet hf hok (succ_ne_zero_of_ne_maxU32 hc) (by simp [hl])) h

theorem ftWf_nil (m : Nat) : ftWf m [] = true := by simp [ftWf, ftRises]

theorem countText_ftWf {m total : Nat} {text : List Byte} {f : List FtEntry} (h : countText m text = .ok (f, total)) :
    ftWf m f = true :=
  countLoop_ftWf (fun _ _ hmem => textSymbols_scalar hmem) (ftWf_nil m) h

/-! ### The parser fills a frequency table (46_decoder.md R701 to R704) -/

/-- No byte before the sentinel is zero. -/
theorem sentinelAt_take_ne_zero {bs : List Byte} {i : Nat} (h : sentinelAt bs = some i) :
    ∀ b ∈ bs.take i, b ≠ 0#8 := by
  induction bs generalizing i with
  | nil => exact nomatch h
  | cons b bs ih =>
    unfold sentinelAt at h
    split at h
    · obtain rfl := Option.some.inj h
      simp
    · split at h
      · obtain rfl := Option.some.inj h
        exact List.forall_mem_cons.2 ⟨‹_›, ih ‹_›⟩
      · exact nomatch h

/-- A varint without a zero byte is not 0. -/
theorem readVarint_pos {bs : List Byte} {c n : Nat} (hbs : ∀ b ∈ bs, b ≠ 0#8) (h : readVarint bs = some (c, n)) :
    0 < c := by
  induction bs generalizing c n with
  | nil => exact nomatch h
  | cons b bs ih =>
    obtain ⟨hb, hbs⟩ := List.forall_mem_cons.1 hbs
    unfold readVarint at h
    split at h
    · obtain ⟨rfl, -⟩ := Prod.mk.inj (Option.some.inj h)
      exact Nat.pos_of_ne_zero fun h0 => hb (BitVec.eq_of_toNat_eq h0)
    · split at h
      · obtain ⟨rfl, -⟩ := Prod.mk.inj (Option.some.inj h)
        have := ih hbs ‹_›
        omega
      · exact nomatch h

/-- An entry that parses: a new symbol that fits, with a count of 32 bits. -/
theorem parseEntry_ok {m o : Nat} {f : List FtEntry} {bs : List Byte} {v : Sym} {c : Word} {n : Nat}
    (h : parseEntry m o f bs = .ok (v, c, n)) :
    ∃ len k x, utf8At bs = some (v, len) ∧ ftLookup v f = none ∧ f.length ≠ m
      ∧ readVarint (bs.drop len) = some (x, k) ∧ x ≤ maxU32 ∧ c = BitVec.ofNat 32 x ∧ n = len + k := by
  unfold parseEntry at h
  split at h
  · exact nomatch h
  · split at h
    · exact nomatch h
    · split at h
      · exact nomatch h
      · split at h
        · exact nomatch h
        · split at h
          · exact nomatch h
          · cases h
            exact ⟨_, _, _, ‹_›, ‹_›, ‹_›, ‹_›, by omega, rfl, rfl⟩

/-- Without a zero byte, an entry that parses is an entry of R130. -/
theorem parseEntry_entryOk {m o : Nat} {f : List FtEntry} {bs : List Byte} {v : Sym} {c : Word} {n : Nat}
    (hbs : ∀ b ∈ bs, b ≠ 0#8) (h : parseEntry m o f bs = .ok (v, c, n)) : symOk v = true ∧ c ≠ 0#32 := by
  obtain ⟨len, k, x, hat, -, -, hread, hx, rfl, -⟩ := parseEntry_ok h
  obtain ⟨hscalar, hzero⟩ := utf8At_value hat
  have hv : v ≠ 0#21 := by
    rintro rfl
    obtain ⟨rest, rfl⟩ := hzero rfl
    exact hbs 0#8 List.mem_cons_self rfl
  have hpos := readVarint_pos (fun b hb => hbs b (List.mem_of_mem_drop hb)) hread
  refine ⟨by simp [symOk, hscalar, hv], fun h0 => ?_⟩
  have hnat := congrArg BitVec.toNat h0
  unfold maxU32 at hx
  simp only [BitVec.toNat_ofNat] at hnat
  omega

theorem parseFt_ftWf {m skip o : Nat} {f f' : List FtEntry} {bs : List Byte} (hbs : ∀ b ∈ bs, b ≠ 0#8)
    (hf : ftWf m f = true) (h : parseFt m skip o f bs = .ok f') : ftWf m f' = true := by
  induction skip, o, f, bs using parseFt.induct m with
  | case1 skip o f =>
    rw [parseFt] at h
    exact Except.ok.inj h ▸ hf
  | case2 skip o f b bs ih => exact ih (List.forall_mem_cons.1 hbs).2 hf h
  | case3 o f b bs e hentry => simp [parseFt, hentry] at h
  | case4 o f b bs v c n hentry ih =>
    rw [parseFt, hentry] at h
    obtain ⟨-, -, -, -, -, hroom, -⟩ := parseEntry_ok hentry
    obtain ⟨hv, hc⟩ := parseEntry_entryOk hbs hentry
    exact ih (List.forall_mem_cons.1 hbs).2 (ftWf_ftSet hf hv hc fun _ => hroom) h

theorem sentinelScan_ok {art : List Byte} {p : Nat} (h : sentinelScan art = .ok p) : sentinelAt art = some p := by
  unfold sentinelScan at h
  split at h
  · obtain rfl := Except.ok.inj h
    assumption
  · exact nomatch h

theorem parseArtifact_ok {m p : Nat} {art : List Byte} {f : List FtEntry} (h : parseArtifact m art = .ok (p, f)) :
    sentinelAt art = some p ∧ parseFt m 0 0 [] (art.take p) = .ok f := by
  obtain ⟨p', hscan, h⟩ := bind_ok h
  obtain ⟨f', hparse, h⟩ := bind_ok h
  obtain ⟨rfl, rfl⟩ := Prod.mk.inj (Except.ok.inj h)
  exact ⟨sentinelScan_ok hscan, hparse⟩

theorem parseArtifact_ftWf {m p : Nat} {art : List Byte} {f : List FtEntry} (h : parseArtifact m art = .ok (p, f)) :
    ftWf m f = true := by
  obtain ⟨hs, hf⟩ := parseArtifact_ok h
  exact parseFt_ftWf (sentinelAt_take_ne_zero hs) (ftWf_nil m) hf

/-! ### Every step keeps FT a frequency table -/

theorem FtInv_of_none {s : State} (h : s.ft = none) : FtInv s := by simp [FtInv, h]

theorem FtInv_of_table {s : State} {f : List FtEntry} (hs : s.ft = some f)
    (hf : ftWf s.cfgMaxDistinct.toNat f = true) : FtInv s :=
  fun _ h => Option.some.inj (hs.symm.trans h) ▸ hf

theorem FtInv_congr {s t : State} (hs : FtInv s) (hm : t.cfgMaxDistinct = s.cfgMaxDistinct) (hf : t.ft = s.ft) :
    FtInv t := by
  simpa [FtInv, hm, hf] using hs

theorem exec_keeps_ft (i : Instr) (s t : State) (hs : FtInv s) (h : exec i s = .next t) : FtInv t := by
  cases i with
  | nop =>
    obtain rfl := Host.Outcome.next.inj h
    exact FtInv_congr hs rfl rfl
  | clear =>
    obtain rfl := Host.Outcome.next.inj h
    exact FtInv_of_none rfl
  | count =>
    obtain ⟨e, -, rfl⟩ | ⟨f, total, hc, rfl⟩ := execCount_cases h
    · exact FtInv_of_none rfl
    · exact FtInv_of_table rfl (countText_ftWf (countCommand_ok hc).2)
  | parseft =>
    obtain ⟨e, -, rfl⟩ | ⟨p, f, hp, rfl⟩ := execParseft_cases h
    · exact FtInv_of_none rfl
    · exact FtInv_of_table rfl (parseArtifact_ftWf (parseCommand_ok hp).2)
  | build => obtain ⟨e, -, rfl⟩ | ⟨f, ns, -, -, rfl⟩ := execBuild_cases h <;> exact FtInv_congr hs rfl rfl
  | gencode => obtain ⟨-, rfl⟩ | ⟨ns, -, rfl⟩ := execGencode_cases h <;> exact FtInv_congr hs rfl rfl
  | encode =>
    obtain ⟨e, -, rfl⟩ | ⟨r, hr, rfl⟩ := execEncode_cases h
    · exact FtInv_of_none rfl
    · obtain ⟨⟨total, hc⟩, -⟩ := encodeText_ok (encodeCommand_ok hr).2
      exact FtInv_of_table rfl (countText_ftWf hc)
  | decode =>
    obtain ⟨e, -, rfl⟩ | ⟨e, -, -, rfl⟩ | ⟨r, -, hr, rfl⟩ := execDecode_cases h
    · exact FtInv_of_none rfl
    · exact FtInv_of_none rfl
    · obtain ⟨p, bitlen, packed, hp, -⟩ := decodeArtifact_ok hr
      exact FtInv_of_table rfl (parseArtifact_ftWf hp)

theorem hostAct_keeps_ft (op : HostOp) (s t : State) (hs : FtInv s) (h : hostAct op s = .next t) : FtInv t := by
  obtain ⟨-, rfl⟩ | ⟨hf, -, -⟩ := hostAct_tables h
  · exact FtInv_of_none rfl
  · exact FtInv_congr hs (hostAct_cfg h).1 hf

/-- Settles O56: the counter and the parser set supported symbols with counts of at least 1, in ascending order, while
there is room. -/
theorem stepKeepsFrequencyTable : Obligations.StepKeepsFrequencyTable := by
  unfold Obligations.StepKeepsFrequencyTable
  have parts : KeptByParts FtInv := {
    program := fun _ _ _ hs => hs
    host := hostAct_keeps_ft
    command := fun i s t _ => exec_keeps_ft i s t
    illegal := fun _ _ _ hs => hs }
  exact fun s t hs h => parts.step hs h

end Sys2Proof.Machine
end

section
/-! PROOFS. The tree of build_tree. -/

namespace Sys2Proof.Machine

/-! ### The merges of build_tree (43_tree_builder.md R561) -/

theorem takeLeast_eq_none {pool : List (Node × Nat)} (h : takeLeast pool = none) : pool = [] := by
  cases pool with
  | nil => rfl
  | cons y pool =>
    unfold takeLeast at h
    split at h
    · exact nomatch h
    · split at h <;> exact nomatch h

theorem takeLeast_of_ne_nil {pool : List (Node × Nat)} (h : pool ≠ []) : ∃ x rest, takeLeast pool = some (x, rest) := by
  cases hp : takeLeast pool with
  | none => exact absurd (takeLeast_eq_none hp) h
  | some p => exact ⟨p.1, p.2, rfl⟩

theorem takeLeast_perm {pool rest : List (Node × Nat)} {x : Node × Nat} (h : takeLeast pool = some (x, rest)) :
    pool.Perm (x :: rest) := by
  induction pool generalizing x rest with
  | nil => exact nomatch h
  | cons y pool ih =>
    unfold takeLeast at h
    split at h
    · rename_i hnone
      cases h
      rw [takeLeast_eq_none hnone]
    · split at h <;> cases h
      · exact .refl _
      · exact ((ih ‹_›).cons y).trans (.swap _ _ _)

/-- A pool of two members or more gives a merge its two least. -/
theorem takeLeast_twice {pool : List (Node × Nat)} (h : 2 ≤ pool.length) :
    ∃ a pool1 b rest, takeLeast pool = some (a, pool1) ∧ takeLeast pool1 = some (b, rest)
      ∧ pool.Perm (a :: b :: rest) := by
  obtain ⟨a, pool1, ha⟩ := takeLeast_of_ne_nil (pool := pool) (by rintro rfl; simp at h)
  have hperm := takeLeast_perm ha
  have hlen := hperm.length_eq
  rw [List.length_cons] at hlen
  obtain ⟨b, rest, hb⟩ := takeLeast_of_ne_nil (pool := pool1) (by rintro rfl; simp at hlen; omega)
  exact ⟨a, pool1, b, rest, ha, hb, hperm.trans ((takeLeast_perm hb).cons a)⟩

theorem buildTree_ok {f : List FtEntry} {ns : List Node} (h : buildTree f = .ok ns) :
    f ≠ [] ∧ ns = mergeLoop (f.length - 1) 0 (leavesOf f) (leavesOf f).zipIdx := by
  unfold buildTree at h
  split at h
  · exact nomatch h
  · exact ⟨by simp_all, (Except.ok.inj h).symm⟩

/-! ### One parent each (10_state.md R134) -/

/-- The arena during the merges: every index is a child once or waits in the pool, and the newest node waits. -/
structure Forest (nodes : List Node) (pool : List (Node × Nat)) : Prop where
  perm : (nodes.flatMap childrenOf ++ pool.map Prod.snd).Perm (List.range nodes.length)
  newest : nodes.length - 1 ∈ pool.map Prod.snd

theorem childrenOf_mergeNode (a b : Node × Nat) (k : Nat) : childrenOf (mergeNode a b k) = [a.2, b.2] := rfl

theorem Forest.leaves {f : List FtEntry} (hf : f ≠ []) : Forest (leavesOf f) (leavesOf f).zipIdx := by
  have hchildren : (leavesOf f).flatMap childrenOf = [] := by simp [leavesOf, childrenOf]
  have hlen : (leavesOf f).length = f.length := by simp [leavesOf]
  have hpos := List.length_pos_iff.2 hf
  constructor
  · rw [hchildren, List.nil_append, List.zipIdx_map_snd, List.range_eq_range']
  · rw [List.zipIdx_map_snd, List.mem_range'_1]
    omega

theorem Forest.merge {nodes : List Node} {pool rest : List (Node × Nat)} {a b : Node × Nat} (k : Nat)
    (hforest : Forest nodes pool) (hpool : pool.Perm (a :: b :: rest)) :
    Forest (nodes ++ [mergeNode a b k]) (rest ++ [(mergeNode a b k, nodes.length)]) := by
  constructor
  · have hmap : (pool.map Prod.snd).Perm (a.2 :: b.2 :: rest.map Prod.snd) := hpool.map Prod.snd
    have hold := (hmap.symm.append_left (nodes.flatMap childrenOf)).trans hforest.perm
    simpa [childrenOf_mergeNode, List.range_succ] using hold.append_right [nodes.length]
  · simp

/-- After the last merge the pool is the root, so the children and the root are the indices, each once. -/
theorem mergeLoop_children_perm {m k : Nat} {nodes : List Node} {pool : List (Node × Nat)} (hforest : Forest nodes pool)
    (hlen : pool.length = m + 1) :
    ((mergeLoop m k nodes pool).flatMap childrenOf ++ [rootOf (mergeLoop m k nodes pool)]).Perm
      (List.range (mergeLoop m k nodes pool).length) := by
  induction m generalizing k nodes pool with
  | zero =>
    obtain ⟨x, rfl⟩ := List.length_eq_one_iff.1 hlen
    have hroot : rootOf nodes = x.2 := by simpa [rootOf] using hforest.newest
    simpa [mergeLoop, hroot] using hforest.perm
  | succ m ih =>
    obtain ⟨a, pool1, b, rest, ha, hb, hperm⟩ := takeLeast_twice (pool := pool) (by omega)
    have hrest := hperm.length_eq
    simp only [List.length_cons] at hrest
    simp only [mergeLoop, ha, hb]
    exact ih (hforest.merge k hperm) (by rw [List.length_append, List.length_singleton]; omega)

/-- The children of a built tree and its root are its indices, each once. -/
theorem buildTree_children_perm {f : List FtEntry} {ns : List Node} (h : buildTree f = .ok ns) :
    (ns.flatMap childrenOf ++ [rootOf ns]).Perm (List.range ns.length) := by
  obtain ⟨hf, rfl⟩ := buildTree_ok h
  have hpos := List.length_pos_iff.2 hf
  exact mergeLoop_children_perm (.leaves hf) (by simp [leavesOf]; omega)

/-- Settles O42: among the children and the root each index occurs once. -/
theorem treeHasOneParentEach : Obligations.TreeHasOneParentEach := by
  unfold Obligations.TreeHasOneParentEach
  intro f ns h i hi
  have hcount := (buildTree_children_perm h).count_eq i
  rw [List.count_append, List.count_eq_one_of_mem List.nodup_range (List.mem_range.2 hi)] at hcount
  split
  · rename_i hroot
    simpa [hroot] using hcount
  · rename_i hroot
    simpa [List.count_singleton, Ne.symm hroot] using hcount

end Sys2Proof.Machine
end

section
/-! PROOFS. The invariant of BUF. -/

namespace Sys2Proof.Machine

/-! ### The symbols of a code table are those of the frequency table (44_code_table.md R602) -/

/-- The symbol of a leaf. -/
def Node.sym? : Node → Option Sym
  | .leaf _ sym => some sym
  | .internal _ _ _ _ => none

theorem filterMap_sym?_leavesOf (f : List FtEntry) : (leavesOf f).filterMap Node.sym? = f.map (·.sym) := by
  simp [leavesOf, List.filterMap_map, Function.comp_def, Node.sym?]

/-- A merge adds no leaf. -/
theorem filterMap_sym?_mergeLoop (m k : Nat) (nodes : List Node) (pool : List (Node × Nat)) :
    (mergeLoop m k nodes pool).filterMap Node.sym? = nodes.filterMap Node.sym? := by
  induction m generalizing k nodes pool with
  | zero => rfl
  | succ m ih =>
    unfold mergeLoop
    split
    · rfl
    · split
      · rfl
      · rw [ih]
        simp [Node.sym?, mergeNode]

theorem ctEntries_syms (codes : List (Nat × Bits)) (l : List (Node × Nat)) :
    (ctEntries codes l).map (·.sym) = (l.map Prod.fst).filterMap Node.sym? := by
  induction l with
  | nil => rfl
  | cons x l ih =>
    obtain ⟨x, i⟩ := x
    cases x with
    | leaf w sym => exact congrArg (sym :: ·) ih
    | internal w l r q => exact ih

theorem genCodes_syms {f : List FtEntry} {ns : List Node} (h : buildTree f = .ok ns) :
    (genCodes ns).map (·.sym) = f.map (·.sym) := by
  obtain ⟨-, rfl⟩ := buildTree_ok h
  rw [genCodes, ctEntries_syms, List.zipIdx_map_fst, filterMap_sym?_mergeLoop, filterMap_sym?_leavesOf]

theorem codeOf_of_mem {ct : List CtEntry} {c : CtEntry} (hnodup : (ct.map (·.sym)).Nodup) (hc : c ∈ ct) :
    codeOf c.sym ct = c.code := by
  induction ct with
  | nil => exact absurd hc List.not_mem_nil
  | cons d ct ih =>
    obtain ⟨hd, hnodup⟩ := List.nodup_cons.1 hnodup
    rcases List.mem_cons.1 hc with rfl | hc
    · simp [codeOf]
    · have hne : d.sym ≠ c.sym := fun heq => hd (by simpa only [heq] using List.mem_map_of_mem hc)
      rw [codeOf, if_neg hne, ih hnodup hc]

theorem nodup_of_ftRises {f : List FtEntry} (h : ftRises f = true) : (f.map (·.sym)).Nodup := by
  rw [List.Nodup, List.pairwise_map]
  exact ((ftRises_iff f).1 h).imp fun hlt heq => by simp [heq] at hlt

/-! ### The stream bits of the text are as many as R653 counts -/

/-- The sum over the entries of count times a length per symbol. -/
def weightedLength (len : Sym → Nat) (f : List FtEntry) : Nat := (f.map fun e => e.count.toNat * len e.sym).sum

/-- R653's sum, entry by entry, is the sum by symbol. -/
theorem bitLength_eq_weightedLength {len : Sym → Nat} {f : List FtEntry} {ct : List CtEntry}
    (hsyms : ct.map (·.sym) = f.map (·.sym)) (hlen : ∀ c ∈ ct, len c.sym = c.code.length) :
    bitLength f ct = weightedLength len f := by
  induction f generalizing ct with
  | nil => rfl
  | cons e f ih =>
    cases ct with
    | nil => exact nomatch hsyms
    | cons c ct =>
      obtain ⟨hsym, hsyms⟩ := List.cons.inj hsyms
      obtain ⟨hc, hlen⟩ := List.forall_mem_cons.1 hlen
      have hrest := ih hsyms hlen
      simp only [weightedLength] at hrest
      simp [bitLength, weightedLength, hrest, ← hc, ← hsym]

/-- A new symbol of count 1 adds its length. -/
theorem weightedLength_ftSet_new (len : Sym → Nat) {v : Sym} {f : List FtEntry} (h : ftLookup v f = none) :
    weightedLength len (ftSet v 1 f) = weightedLength len f + len v := by
  have hperm := (ftSet_perm_of_absent 1 (ftLookup_eq_none h)).map fun e => e.count.toNat * len e.sym
  simpa [weightedLength, Nat.add_comm] using hperm.sum_eq

/-- One more of a symbol adds its length, when its count does not overflow. -/
theorem weightedLength_ftSet_succ (len : Sym → Nat) {v : Sym} {c : Word} {f : List FtEntry} (hr : ftRises f = true)
    (h : ftLookup v f = some c) (hc : c.toNat ≠ maxU32) :
    weightedLength len (ftSet v (c + 1) f) = weightedLength len f + len v := by
  obtain ⟨l, r, hf, hset⟩ := ftSet_of_present (c + 1) hr (mem_of_ftLookup h)
  have hsucc : (c + 1).toNat = c.toNat + 1 := by
    unfold maxU32 at hc
    bv_omega
  rw [hset, hf]
  simp only [weightedLength, List.map_append, List.map_cons, List.sum_append, List.sum_cons, hsucc]
  ring

/-- Counting a text adds the lengths of the codes of its symbols. -/
theorem countLoop_weightedLength {m : Nat} (ct : List CtEntry) {syms : List (Nat × Option Sym)} {f : List FtEntry}
    {total : Nat} {r : List FtEntry × Nat} (hr : ftRises f = true) (h : countLoop m syms f total = .ok r) :
    weightedLength (fun v => (codeOf v ct).length) r.1
      = weightedLength (fun v => (codeOf v ct).length) f + (textBits ct syms).length := by
  induction syms generalizing f total with
  | nil =>
    obtain rfl := Except.ok.inj h
    rfl
  | cons x syms ih =>
    obtain ⟨o, x⟩ := x
    obtain ⟨v, rfl, -, ⟨hl, -, h⟩ | ⟨c, hl, hc, h⟩⟩ := countLoop_cons_ok h
    · rw [ih (ftRises_ftSet v 1 hr) h, weightedLength_ftSet_new _ hl, textBits, List.length_append, Nat.add_assoc]
    · rw [ih (ftRises_ftSet v (c + 1) hr) h, weightedLength_ftSet_succ _ hr hl hc, textBits, List.length_append,
        Nat.add_assoc]

/-- `bitlen` is the number of stream bits the text packs to (45_encoder.md R653, R655). -/
theorem textBits_length {m total : Nat} {text : List Byte} {f : List FtEntry} {ns : List Node}
    (hcount : countText m text = .ok (f, total)) (htree : buildTree f = .ok ns) :
    (textBits (genCodes ns) (textSymbols 0 0 text)).length = bitLength f (genCodes ns) := by
  obtain ⟨hr, -, -⟩ := (ftWf_iff m f).1 (countText_ftWf hcount)
  have hsyms := genCodes_syms htree
  have hnodup : ((genCodes ns).map (·.sym)).Nodup := hsyms ▸ nodup_of_ftRises hr
  have hsum := countLoop_weightedLength (genCodes ns) rfl hcount
  rw [bitLength_eq_weightedLength (len := fun v => (codeOf v (genCodes ns)).length) hsyms
    fun c hc => congrArg List.length (codeOf_of_mem hnodup hc), hsum]
  simp [weightedLength]

/-! ### The length of an artifact (30_encoding.md R336) -/

theorem utf8_length (v : Sym) : (utf8 v).length = utf8len v := by
  have hlen : utf8len v = 1 ∨ utf8len v = 2 ∨ utf8len v = 3 ∨ utf8len v = 4 := by
    unfold utf8len
    split_ifs <;> simp
  rcases hlen with h | h | h | h <;> simp [utf8, h]

theorem leb_length (c : Word) : (leb c).length = leblen c := by
  have hc := c.isLt
  simp only [leb, lebGroups, leblen]
  split_ifs <;> simp <;> omega

theorem serialiseFt_length (f : List FtEntry) : (serialiseFt f).length = ftSegLength f := by
  induction f with
  | nil => rfl
  | cons e f ih => simp [serialiseFt, ftSegLength, utf8_length, leb_length, ih, Nat.add_assoc]

theorem packFrom_length (acc : Byte) {k : Nat} (hk : k < 8) (bits : Bits) :
    (packFrom acc k bits).length = ceilDiv8 (k + bits.length) := by
  unfold ceilDiv8
  induction bits generalizing acc k with
  | nil =>
    unfold packFrom
    split
    · simp_all
    · simp
      omega
  | cons b bits ih =>
    simp only [packFrom]
    split
    · rw [List.length_cons, ih _ (by decide), List.length_cons]
      omega
    · rw [ih _ (by omega), List.length_cons]
      omega

theorem artifact_length (f : List FtEntry) (ct : List CtEntry) (bitlen : Nat) (text : List Byte) :
    (artifact f ct bitlen text).length = artifactSize f (textBits ct (textSymbols 0 0 text)).length := by
  simp [artifact, artifactSize, serialiseFt_length, packBits, packFrom_length, be32]
  omega

/-- The bytes of an artifact are as many as `size` says (45_encoder.md R654). -/
theorem encodeText_bytes_length {m cap : Nat} {text : List Byte} {r : EncodeResult} (h : encodeText m cap text = .ok r) :
    r.bytes.length = r.size := by
  obtain ⟨⟨total, hcount⟩, htree, hct, hbitlen, -, hsize, -, hbytes⟩ := encodeText_ok h
  rw [hbytes, artifact_length, hsize, hbitlen, hct, textBits_length hcount htree]

/-! ### The output of DECODE fits its region (46_decoder.md R728) -/

theorem emit_ok {cap : Nat} {v : Sym} {out out' : List Byte} (h : emit cap v out = .ok out') :
    out' = out ++ utf8 v ∧ out'.length ≤ cap := by
  unfold emit at h
  split at h
  · exact nomatch h
  · obtain rfl := Except.ok.inj h
    exact ⟨rfl, by rw [List.length_append]; omega⟩

theorem emitRepeat_length_le {cap count : Nat} {v : Sym} {out out' : List Byte} (hout : out.length ≤ cap)
    (h : emitRepeat cap v count out = .ok out') : out'.length ≤ cap := by
  induction count generalizing out with
  | zero => exact Except.ok.inj h ▸ hout
  | succ count ih =>
    unfold emitRepeat at h
    split at h
    · exact nomatch h
    · exact ih (emit_ok ‹_›).2 h

theorem walkBits_length_le {nodes : List Node} {root cap : Nat} {bits : Bits} {i x start nsym : Nat} {out : List Byte}
    {r : List Byte × Nat} (hout : out.length ≤ cap) (h : walkBits nodes root cap bits i x start out nsym = .ok r) :
    r.1.length ≤ cap := by
  induction bits generalizing i x start out nsym with
  | nil =>
    unfold walkBits at h
    split at h
    · exact nomatch h
    · exact Except.ok.inj h ▸ hout
  | cons b bits ih =>
    simp only [walkBits] at h
    split at h
    · split at h
      · split at h
        · exact nomatch h
        · exact ih (emit_ok ‹_›).2 h
      · exact ih hout h
    · exact nomatch h

theorem walkStream_length_le {f : List FtEntry} {nodes : List Node} {cap bitlen : Nat} {packed : List Byte}
    {r : List Byte × Nat} (h : walkStream f nodes cap bitlen packed = .ok r) : r.1.length ≤ cap := by
  unfold walkStream at h
  split at h
  · split at h
    · exact nomatch h
    · split at h
      · exact nomatch h
      · obtain rfl := Except.ok.inj h
        exact emitRepeat_length_le (out := []) (Nat.zero_le cap) ‹_›
  · exact walkBits_length_le (out := []) (Nat.zero_le cap) h

/-! ### Every step keeps BUF canonical and inside its bounds -/

/-- What a command may do to BUF: nothing, scribble its destination region, or store bytes that fit there
(60_exceptions.md R812, R824). -/
theorem exec_buf {i : Instr} {s t : State} (h : exec i s = .next t) :
    t.buf = s.buf ∨ t.buf = (scribbleDest s).buf
      ∨ ∃ bs, DstOk s ∧ bs.length ≤ s.dstCap.toNat ∧ t.buf = Memory.writeList s.buf s.dstAddr.toNat bs := by
  cases i with
  | nop => exact .inl (Host.Outcome.next.inj h ▸ rfl)
  | clear => exact .inl (Host.Outcome.next.inj h ▸ rfl)
  | count => obtain ⟨e, -, rfl⟩ | ⟨f, total, -, rfl⟩ := execCount_cases h <;> exact .inl rfl
  | parseft => obtain ⟨e, -, rfl⟩ | ⟨p, f, -, rfl⟩ := execParseft_cases h <;> exact .inl rfl
  | build => obtain ⟨e, -, rfl⟩ | ⟨f, ns, -, -, rfl⟩ := execBuild_cases h <;> exact .inl rfl
  | gencode => obtain ⟨-, rfl⟩ | ⟨ns, -, rfl⟩ := execGencode_cases h <;> exact .inl rfl
  | encode =>
    obtain ⟨e, -, rfl⟩ | ⟨r, hr, rfl⟩ := execEncode_cases h
    · exact .inl rfl
    · obtain ⟨hregions, hr⟩ := encodeCommand_ok hr
      obtain ⟨-, hdst, -⟩ := (checkRegions_ok s).1 hregions
      obtain ⟨-, -, -, -, -, -, hcap, -⟩ := encodeText_ok hr
      exact .inr (.inr ⟨r.bytes, hdst, (encodeText_bytes_length hr).trans_le hcap, rfl⟩)
  | decode =>
    obtain ⟨e, -, rfl⟩ | ⟨e, -, -, rfl⟩ | ⟨r, hregions, hr, rfl⟩ := execDecode_cases h
    · exact .inl rfl
    · exact .inr (.inl rfl)
    · obtain ⟨-, hdst, -⟩ := (checkRegions_ok s).1 hregions
      obtain ⟨p, bitlen, packed, -, -, -, hwalk⟩ := decodeArtifact_ok hr
      exact .inr (.inr ⟨r.bytes, hdst, walkStream_length_le hwalk, rfl⟩)

theorem MemInv_scribbleDest {s : State} (hs : MemInv s) : MemInv (scribbleDest s) :=
  ⟨wf_scribbleDest s hs.1, below_scribbleDest s hs.2⟩

theorem MemInv_congr {s t : State} (hs : MemInv s) (hsize : t.cfgBufSize = s.cfgBufSize) (hbuf : t.buf = s.buf) :
    MemInv t := by
  simpa [MemInv, hsize, hbuf] using hs

theorem exec_keeps_memory (i : Instr) (s t : State) (hs : MemInv s) (h : exec i s = .next t) : MemInv t := by
  obtain ⟨-, hsize⟩ := exec_cfg h
  obtain hbuf | hbuf | ⟨bs, hdst, hcap, hbuf⟩ := exec_buf h
  · exact MemInv_congr hs hsize hbuf
  · exact MemInv_congr (MemInv_scribbleDest hs) hsize hbuf
  · obtain ⟨hwf, hbelow⟩ := hs
    unfold DstOk at hdst
    rw [MemInv, hbuf, hsize]
    exact ⟨Memory.wf_writeList _ _ _ hwf, Memory.below_writeList _ _ _ _ (by omega) hbelow⟩

theorem MemInv_hwReset {s : State} (hs : MemInv s) : MemInv (hwReset s) := by
  cases hw : runningWritesDest s with
  | true => exact MemInv_congr (MemInv_scribbleDest hs) rfl (by simp [hwReset_buf, hw])
  | false => exact MemInv_congr hs rfl (by simp [hwReset_buf, hw])

theorem hostAct_keeps_memory (op : HostOp) (s t : State) (hs : MemInv s) (h : hostAct op s = .next t) : MemInv t := by
  obtain ⟨-, rfl⟩ | ⟨w, off, v, -, rfl⟩ | ⟨a, v, -, ha, rfl⟩ | ⟨d, ops, reads, rfl⟩ := hostAct_effect h
  · exact MemInv_hwReset hs
  · obtain ⟨-, hsize, -, -, -, hbuf⟩ := csrWrite_frame w off v s
    exact MemInv_congr hs hsize hbuf
  · obtain ⟨hwf, hbelow⟩ := hs
    exact ⟨Memory.wf_write _ _ _ hwf, Memory.below_write _ _ _ _ ha hbelow⟩
  · exact hs

/-- Settles O55: a command stores no more than DST_CAP bytes in a region that lies in BUF, and a byte access of the host
outside BUF is refused. -/
theorem stepKeepsMemory : Obligations.StepKeepsMemory := by
  unfold Obligations.StepKeepsMemory
  have parts : KeptByParts MemInv := {
    program := fun _ _ _ hs => hs
    host := hostAct_keeps_memory
    command := fun i s t _ => exec_keeps_memory i s t
    illegal := fun _ _ _ hs => hs }
  exact fun s t hs h => parts.step hs h

end Sys2Proof.Machine
end

section
/-! PROOFS. BUF and the CSRs as the host and the commands use them: refused accesses, ignored accesses, and frames
(20_memory.md). -/

namespace Sys2Proof.Machine

/-! ### CSR accesses that are no aligned words (20_memory.md R207) -/

theorem csrAccessOk_eq_false {w : AccessWidth} {off : BitVec 8} :
    csrAccessOk w off = false ↔ w ≠ .word ∨ off.toNat % 4 ≠ 0 := by
  simp [csrAccessOk, imp_iff_not_or]

theorem csrWrite_of_not_ok {w : AccessWidth} {off : BitVec 8} (h : csrAccessOk w off = false) (v : Word) (s : State) :
    csrWrite w off v s = s := by
  simp [csrWrite, h]

/-- Settles O10: such a write is ignored, and such a read hands the host the next free words. -/
theorem misalignedCsrAccess : Obligations.MisalignedCsrAccess := by
  unfold Obligations.MisalignedCsrAccess
  intro s width off v h
  have hok := csrAccessOk_eq_false.2 h
  constructor
  · rw [hostAct, csrWrite_of_not_ok hok]
  · rw [hostAct, csrRead_of_not_ok hok, freeWords_eq]

/-! ### The command in progress by its word (30_encoding.md R303) -/

theorem opcodeMap_eq_ok_iff {n : Nat} {i : Instr} : opcodeMap n = .ok i ↔ n = (encodeWord i).toNat := by
  constructor
  · intro h
    unfold opcodeMap at h
    split at h <;> cases h <;> rfl
  · rintro rfl
    cases i <;> rfl

/-- A word with clear reserved bits is its opcode. -/
theorem toNat_eq_fieldOp {w : Word} (h : fieldRsv w = 0#28) : w.toNat = (fieldOp w).toNat := by
  have hw := w.isLt
  have hrsv := congrArg BitVec.toNat h
  simp only [fieldRsv, BitVec.extractLsb'_toNat, Nat.shiftRight_eq_div_pow, BitVec.toNat_ofNat] at hrsv
  simp only [fieldOp, BitVec.extractLsb'_toNat, Nat.shiftRight_zero]
  omega

/-- A word decodes to a command iff it is the word of that command. -/
theorem decodeWord_eq_ok_iff {w : Word} {i : Instr} : decodeWord w = .ok i ↔ w = encodeWord i := by
  constructor
  · intro h
    unfold decodeWord at h
    split at h
    · exact nomatch h
    · rename_i hrsv
      exact BitVec.eq_of_toNat_eq ((toNat_eq_fieldOp (not_not.1 hrsv)).trans (opcodeMap_eq_ok_iff.1 h))
  · rintro rfl
    exact decodeWord_encodeWord i

theorem readsSource_iff_mem (i : Instr) :
    readsSource i = true ↔ i ∈ [Instr.count, .parseft, .encode, .decode] := by
  cases i <;> simp [readsSource]

theorem writesDest_iff_mem (i : Instr) : writesDest i = true ↔ i ∈ [Instr.encode, .decode] := by
  cases i <;> simp [writesDest]

theorem runningReadsSource_iff (s : State) : runningReadsSource s = true ↔
    s.phase = .busy ∧ ∃ i ∈ [Instr.count, .parseft, .encode, .decode], s.curOp = encodeWord i := by
  simp only [← readsSource_iff_mem, ← decodeWord_eq_ok_iff]
  unfold runningReadsSource
  split <;> simp_all

theorem runningWritesDest_iff (s : State) : runningWritesDest s = true ↔
    s.phase = .busy ∧ ∃ i ∈ [Instr.encode, .decode], s.curOp = encodeWord i := by
  simp only [← writesDest_iff_mem, ← decodeWord_eq_ok_iff]
  unfold runningWritesDest
  split <;> simp_all

/-! ### The host's duties while a command runs (20_memory.md R223) -/

theorem inSource_iff (s : State) (a : Nat) :
    inSource s a = true ↔ s.srcAddr.toNat ≤ a ∧ a < s.srcAddr.toNat + s.srcLen.toNat := by
  simp [inSource]

theorem inDest_iff (s : State) (a : Nat) :
    inDest s a = true ↔ s.dstAddr.toNat ≤ a ∧ a < s.dstAddr.toNat + s.dstCap.toNat := by
  simp [inDest]

section
variable {s : State} {a : Word} (ha : a.toNat < s.cfgBufSize.toNat)
include ha

theorem bufRead_refused_hostDuty_iff :
    hostAct (.bufRead a) s = .refused .hostDuty ↔ readBreaksDuty s a.toNat = true := by
  simp only [hostAct, bufRead, if_neg (Nat.not_le.2 ha)]
  split <;> simp_all

theorem bufWrite_refused_hostDuty_iff (v : Word) :
    hostAct (.bufWrite a v) s = .refused .hostDuty ↔ writeBreaksDuty s a.toNat = true := by
  simp only [hostAct, bufWrite, if_neg (Nat.not_le.2 ha)]
  split <;> simp_all

end

/-- Settles O19: inside BUF an access is refused iff it breaks a duty, and which commands have a region the command word
says. -/
theorem hostDutiesWhileBusy : Obligations.HostDutiesWhileBusy := by
  unfold Obligations.HostDutiesWhileBusy
  intro s a v ha
  constructor
  · rw [bufRead_refused_hostDuty_iff ha, readBreaksDuty, Bool.and_eq_true, runningWritesDest_iff, inDest_iff, and_assoc]
  · rw [bufWrite_refused_hostDuty_iff ha, writeBreaksDuty, Bool.or_eq_true, Bool.and_eq_true, Bool.and_eq_true,
      runningReadsSource_iff, runningWritesDest_iff, inSource_iff, inDest_iff, and_assoc, and_assoc, ← and_or_left]

/-! ### The command in progress and its operands (20_memory.md R228; 40_host_interface.md R404, R405) -/

/-- The two states agree on PHASE, the command word and the operand CSRs. -/
def SameCommand (s t : State) : Prop :=
  t.phase = s.phase ∧ t.curOp = s.curOp ∧ t.srcAddr = s.srcAddr ∧ t.srcLen = s.srcLen
    ∧ t.dstAddr = s.dstAddr ∧ t.dstCap = s.dstCap

/-- While BUSY a CSR write starts no command and sets no operand. -/
theorem csrWrite_sameCommand {s : State} (hp : s.phase = .busy) (w : AccessWidth) (off : BitVec 8) (v : Word) :
    SameCommand s (csrWrite w off v s) := by
  rcases csrWrite_cases w off v s with h | ⟨-, h⟩ | ⟨hidle, -⟩ | h | ⟨hidle, -⟩ | h | h | h
  case inr.inr.inl | inr.inr.inr.inr.inl => exact nomatch hidle.symm.trans hp
  all_goals simp [SameCommand, h]

theorem hostAct_sameCommand {op : HostOp} {s t : State} (hp : s.phase = .busy) (hop : op ≠ .reset)
    (h : hostAct op s = .next t) : SameCommand s t := by
  obtain ⟨hreset, -⟩ | ⟨w, off, v, -, rfl⟩ | ⟨a, v, -, -, rfl⟩ | ⟨d, ops, reads, rfl⟩ := hostAct_effect h
  · exact absurd hreset hop
  · exact csrWrite_sameCommand hp w off v
  · exact ⟨rfl, rfl, rfl, rfl, rfl, rfl⟩
  · exact ⟨rfl, rfl, rfl, rfl, rfl, rfl⟩

/-- A host step takes the next operation off the program, or finds none. -/
theorem hostStep_cases {s t : State} (ha : nextAgent s = .host) (h : step s = .next t) :
    (∃ op rest sch, s.hostOps = op :: rest ∧ hostAct op { s with hostOps := rest, schedule := sch } = .next t)
      ∨ ∃ sch, t = { s with schedule := sch } := by
  obtain ⟨-, hcore, -⟩ | ⟨op, rest, -, hops, h⟩ | ⟨-, -, rfl⟩ := step_cases h
  · exact nomatch ha.symm.trans hcore
  · exact .inl ⟨op, rest, _, hops, useSchedule_eq s ▸ h⟩
  · exact .inr ⟨_, useSchedule_eq s⟩

/-- Settles O20: by the effect of the host's next operation, which is no reset. -/
theorem hostStepsLeaveCommandAlone : Obligations.HostStepsLeaveCommandAlone := by
  unfold Obligations.HostStepsLeaveCommandAlone
  intro s t ha h hreset
  obtain ⟨op, rest, sch, hops, h⟩ | ⟨sch, rfl⟩ := hostStep_cases ha h
  · have hop : op ≠ .reset := fun heq => hreset rest (heq ▸ hops)
    obtain ⟨heq, -⟩ | ⟨hft, hnodes, hct⟩ := hostAct_tables h
    · exact absurd heq hop
    · refine ⟨hft, hnodes, hct, fun hp => ?_⟩
      obtain ⟨hphase, hoperands⟩ := hostAct_sameCommand (s := { s with hostOps := rest, schedule := sch }) hp hop h
      exact ⟨hphase.trans hp, hoperands⟩
  · exact ⟨rfl, rfl, rfl, fun hp => ⟨hp, rfl, rfl, rfl, rfl, rfl⟩⟩

/-! ### A command writes its destination region only (20_memory.md R214) -/

theorem exec_powerOn {i : Instr} {s t : State} (h : exec i s = .next t) : t.powerOn = s.powerOn := by
  obtain ⟨e, u, rfl | rfl, rfl⟩ | ⟨len, aux, f, ns, c, m, rfl⟩ := exec_cases h <;> rfl

/-- A command without a destination region leaves BUF alone. -/
theorem exec_buf_of_not_writesDest {i : Instr} {s t : State} (hi : writesDest i = false) (h : exec i s = .next t) :
    t.buf = s.buf := by
  cases i with
  | nop => exact Host.Outcome.next.inj h ▸ rfl
  | clear => exact Host.Outcome.next.inj h ▸ rfl
  | count => obtain ⟨e, -, rfl⟩ | ⟨f, total, -, rfl⟩ := execCount_cases h <;> rfl
  | parseft => obtain ⟨e, -, rfl⟩ | ⟨p, f, -, rfl⟩ := execParseft_cases h <;> rfl
  | build => obtain ⟨e, -, rfl⟩ | ⟨f, ns, -, -, rfl⟩ := execBuild_cases h <;> rfl
  | gencode => obtain ⟨-, rfl⟩ | ⟨ns, -, rfl⟩ := execGencode_cases h <;> rfl
  | encode => exact nomatch hi
  | decode => exact nomatch hi

/-- No command changes a byte outside the region its operands give. -/
theorem readByte_exec_outside {i : Instr} {s t : State} (h : exec i s = .next t) {a : Nat} (ha : inDest s a = false) :
    readByte t a = readByte s a := by
  have hpower := exec_powerOn h
  obtain hbuf | hbuf | ⟨bs, -, hcap, hbuf⟩ := exec_buf h
  · exact readByte_congr hbuf hpower a
  · exact (readByte_congr hbuf hpower a).trans (readByte_scribbleDest_outside s a ha)
  · have hout : a < s.dstAddr.toNat ∨ s.dstAddr.toNat + bs.length ≤ a := by
      rw [← Bool.not_eq_true, inDest_iff] at ha
      omega
    exact (readByte_congr (s := memWrite s.dstAddr.toNat bs s) hbuf hpower a).trans
      (readByte_memWrite_outside s _ a bs hout)

/-- Settles O25: a command without a destination region leaves BUF alone, and one that has it leaves what lies outside. -/
theorem commandsWriteOnlyDestination : Obligations.CommandsWriteOnlyDestination := by
  unfold Obligations.CommandsWriteOnlyDestination
  intro i s t h a ha
  cases hi : writesDest i with
  | false => exact readByte_congr (exec_buf_of_not_writesDest hi h) (exec_powerOn h) a
  | true =>
    have hcommand : i = .encode ∨ i = .decode := by simpa using (writesDest_iff_mem i).1 hi
    have hout : inDest s a = false := Bool.eq_false_iff.2 fun hin => ha ⟨hcommand, (inDest_iff s a).1 hin⟩
    exact readByte_exec_outside h hout

end Sys2Proof.Machine
end

section
/-! PROOFS. The command words: what the decoder makes of each, and the completion of an illegal one (30_encoding.md R300 to
R304; 60_exceptions.md R806). -/

namespace Sys2Proof.Machine

/-- The reserved bits are looked at before the opcode. -/
theorem decodeWord_of_rsv_ne {w : Word} (h : fieldRsv w ≠ 0) : decodeWord w = .error .reservedBits := if_pos h

theorem decodeWord_of_rsv_eq {w : Word} (h : fieldRsv w = 0) : decodeWord w = opcodeMap (fieldOp w).toNat :=
  if_neg (not_not.2 h)

theorem opcodeMap_of_ge {n : Nat} (h : 8 ≤ n) : opcodeMap n = .error .reservedOpcode := by
  obtain ⟨m, rfl⟩ := Nat.exists_eq_add_of_le' h
  rfl

theorem exists_opcodeMap_of_lt {n : Nat} (h : n < 8) : ∃ i, opcodeMap n = .ok i := by
  interval_cases n <;> exact ⟨_, rfl⟩

theorem coreStep_of_error {s : State} {e : DecodeError} (h : decodeWord s.curOp = .error e) :
    coreStep s = .next (illegalCommand e s) := by
  simp [coreStep, h]

/-- Settles O2: it is `decodeWord_eq_ok_iff`. -/
theorem decodeIffEncode : Obligations.DecodeIffEncode := by
  unfold Obligations.DecodeIffEncode
  exact fun _ _ => decodeWord_eq_ok_iff

/-- Settles O1: the eight words are the encoder's own, and the decoder runs on the five reserved ones. -/
theorem commandWordsDecode : Obligations.CommandWordsDecode := by
  unfold Obligations.CommandWordsDecode
  exact ⟨decodeWord_encodeWord .nop, decodeWord_encodeWord .clear, decodeWord_encodeWord .count,
    decodeWord_encodeWord .parseft, decodeWord_encodeWord .build, decodeWord_encodeWord .gencode,
    decodeWord_encodeWord .encode, decodeWord_encodeWord .decode, rfl, rfl, rfl, rfl, rfl⟩

/-- Settles O3: the error completion of an illegal word has no target table, and an opcode below 8 has a command. -/
theorem illegalWordCompletes : Obligations.IllegalWordCompletes := by
  unfold Obligations.IllegalWordCompletes
  refine fun s => ⟨fun hrsv => coreStep_of_error (decodeWord_of_rsv_ne hrsv), fun hrsv hop => ?_, fun hrsv hop => ?_⟩
  · exact coreStep_of_error ((decodeWord_of_rsv_eq hrsv).trans (opcodeMap_of_ge hop))
  · obtain ⟨i, hi⟩ := exists_opcodeMap_of_lt hop
    have hdecode := (decodeWord_of_rsv_eq hrsv).trans hi
    exact ⟨i, decodeWord_eq_ok_iff.1 hdecode, coreStep_of_decodeWord hdecode⟩

end Sys2Proof.Machine
end

section
/-! PROOFS. UTF-8: what `utf8` writes is what `utf8At` reads, and nothing else is (30_encoding.md R320, R321). -/

namespace Sys2Proof.Machine

/-! ### The bytes of a symbol, by its length -/

section
variable {v : Sym}

theorem utf8len_one (h : v.toNat ≤ 0x7F) : utf8len v = 1 := if_pos h

theorem utf8len_two (hlo : 0x80 ≤ v.toNat) (hhi : v.toNat ≤ 0x7FF) : utf8len v = 2 := by
  rw [utf8len, if_neg (by omega), if_pos hhi]

theorem utf8len_three (hlo : 0x800 ≤ v.toNat) (hhi : v.toNat ≤ 0xFFFF) : utf8len v = 3 := by
  rw [utf8len, if_neg (by omega), if_neg (by omega), if_pos hhi]

theorem utf8len_four (hlo : 0x10000 ≤ v.toNat) : utf8len v = 4 := by
  rw [utf8len, if_neg (by omega), if_neg (by omega), if_neg (by omega)]

theorem eq_ofNat_of_toNat_eq {b : Byte} {n : Nat} (h : b.toNat = n) : b = BitVec.ofNat 8 n := by
  simp [← h]

/-- A continuation byte 10xxxxxx holds six bits of a value. -/
theorem contByte_extract (v : Sym) (i : Nat) :
    contByte (v.extractLsb' i 6) = BitVec.ofNat 8 (0x80 + v.toNat / 2 ^ i % 64) := by
  apply BitVec.eq_of_toNat_eq
  rw [contByte, toNat_append_eq_add, BitVec.extractLsb'_toNat, Nat.shiftRight_eq_div_pow, BitVec.toNat_ofNat]
  simp
  omega

/-- A leading byte holds the bits of a value above the continuation bytes. -/
theorem toNat_leadByte {k n : Nat} (v : Sym) (p : BitVec k) (i : Nat) (hv : v.toNat / 2 ^ i < 2 ^ n) :
    (p ++ v.extractLsb' i n).toNat = p.toNat * 2 ^ n + v.toNat / 2 ^ i := by
  rw [toNat_append_eq_add, BitVec.extractLsb'_toNat, Nat.shiftRight_eq_div_pow, Nat.mod_eq_of_lt hv]

theorem utf8_one (h : v.toNat ≤ 0x7F) : utf8 v = [BitVec.ofNat 8 v.toNat] := by
  simp [utf8, utf8len_one h, BitVec.ofNat_toNat]

theorem utf8_two (hlo : 0x80 ≤ v.toNat) (hhi : v.toNat ≤ 0x7FF) :
    utf8 v = [BitVec.ofNat 8 (0xC0 + v.toNat / 2 ^ 6), BitVec.ofNat 8 (0x80 + v.toNat / 2 ^ 0 % 64)] := by
  have hlead : 0b110#3 ++ v.extractLsb' 6 5 = BitVec.ofNat 8 (0xC0 + v.toNat / 2 ^ 6) :=
    eq_ofNat_of_toNat_eq (toNat_leadByte v 0b110#3 6 (by omega))
  simp only [utf8, utf8len_two hlo hhi, contByte_extract, hlead]

theorem utf8_three (hlo : 0x800 ≤ v.toNat) (hhi : v.toNat ≤ 0xFFFF) :
    utf8 v = [BitVec.ofNat 8 (0xE0 + v.toNat / 2 ^ 12), BitVec.ofNat 8 (0x80 + v.toNat / 2 ^ 6 % 64),
      BitVec.ofNat 8 (0x80 + v.toNat / 2 ^ 0 % 64)] := by
  have hlead : 0b1110#4 ++ v.extractLsb' 12 4 = BitVec.ofNat 8 (0xE0 + v.toNat / 2 ^ 12) :=
    eq_ofNat_of_toNat_eq (toNat_leadByte v 0b1110#4 12 (by omega))
  simp only [utf8, utf8len_three hlo hhi, contByte_extract, hlead]

theorem utf8_four (hlo : 0x10000 ≤ v.toNat) :
    utf8 v = [BitVec.ofNat 8 (0xF0 + v.toNat / 2 ^ 18), BitVec.ofNat 8 (0x80 + v.toNat / 2 ^ 12 % 64),
      BitVec.ofNat 8 (0x80 + v.toNat / 2 ^ 6 % 64), BitVec.ofNat 8 (0x80 + v.toNat / 2 ^ 0 % 64)] := by
  have hv := v.isLt
  have hlead : 0b11110#5 ++ v.extractLsb' 18 3 = BitVec.ofNat 8 (0xF0 + v.toNat / 2 ^ 18) :=
    eq_ofNat_of_toNat_eq (toNat_leadByte v 0b11110#5 18 (by omega))
  simp only [utf8, utf8len_four hlo, contByte_extract, hlead]

/-- The four lengths, with the values that have them. -/
theorem utf8len_cases (v : Sym) : v.toNat ≤ 0x7F ∨ (0x80 ≤ v.toNat ∧ v.toNat ≤ 0x7FF)
    ∨ (0x800 ≤ v.toNat ∧ v.toNat ≤ 0xFFFF) ∨ 0x10000 ≤ v.toNat := by
  omega

end

/-- Only U+0000 has a zero byte. -/
theorem zero_mem_utf8 (v : Sym) : 0#8 ∈ utf8 v ↔ v = 0 := by
  have hv := v.isLt
  rw [← BitVec.toNat_inj, show (0 : Sym).toNat = 0 from rfl]
  obtain h | ⟨hlo, hhi⟩ | ⟨hlo, hhi⟩ | hlo := utf8len_cases v
  · simp only [utf8_one h, List.mem_cons, List.not_mem_nil, or_false, ← BitVec.toNat_inj, BitVec.toNat_ofNat]
    omega
  · simp only [utf8_two hlo hhi, List.mem_cons, List.not_mem_nil, or_false, ← BitVec.toNat_inj, BitVec.toNat_ofNat]
    omega
  · simp only [utf8_three hlo hhi, List.mem_cons, List.not_mem_nil, or_false, ← BitVec.toNat_inj, BitVec.toNat_ofNat]
    omega
  · simp only [utf8_four hlo, List.mem_cons, List.not_mem_nil, or_false, ← BitVec.toNat_inj, BitVec.toNat_ofNat]
    omega

/-- The value of the bytes of a symbol is the symbol. -/
theorem utf8Value_utf8 (v : Sym) (rest : List Byte) : utf8Value (utf8len v) (utf8 v ++ rest) = v := by
  have hv := v.isLt
  apply BitVec.eq_of_toNat_eq
  obtain h | ⟨hlo, hhi⟩ | ⟨hlo, hhi⟩ | hlo := utf8len_cases v
  · simp only [utf8len_one h, utf8_one h, List.cons_append, utf8Value_one, BitVec.toNat_ofNat]
    omega
  · simp only [utf8len_two hlo hhi, utf8_two hlo hhi, List.cons_append, utf8Value_two, BitVec.toNat_ofNat]
    omega
  · simp only [utf8len_three hlo hhi, utf8_three hlo hhi, List.cons_append, utf8Value_three, BitVec.toNat_ofNat]
    omega
  · simp only [utf8len_four hlo, utf8_four hlo, List.cons_append, utf8Value_four, BitVec.toNat_ofNat]
    omega

/-! ### The table of R320 -/

/-- The length a leading byte announces. -/
def leadLength (b : Byte) : Nat :=
  if b.toNat < 0x80 then 1 else if b.toNat < 0xE0 then 2 else if b.toNat < 0xF0 then 3 else 4

/-- A match begins with a leading byte, which tells the row's length. -/
theorem length_eq_leadLength {row : List (Nat × Nat)} {bs : List Byte} (hrow : row ∈ utf8Rows)
    (h : rowMatches row bs = true) : ∃ b rest, bs = b :: rest ∧ row.length = leadLength b := by
  simp only [utf8Rows, List.mem_cons, List.not_mem_nil, or_false] at hrow
  rcases hrow with rfl | rfl | rfl | rfl | rfl | rfl | rfl | rfl | rfl
  all_goals
    obtain ⟨b, rest, rfl, hlo, hhi, -⟩ := rowMatches_cons h
    refine ⟨b, rest, rfl, ?_⟩
    simp only [leadLength, List.length_cons, List.length_nil]
    split_ifs <;> omega

/-- Whichever row matches, `utf8At` answers by its length, for the rows that match have the same. -/
theorem utf8At_of_rowMatches {row : List (Nat × Nat)} {bs : List Byte} (hrow : row ∈ utf8Rows)
    (h : rowMatches row bs = true) : utf8At bs = some (utf8Value row.length bs, row.length) := by
  obtain ⟨b, rest, rfl, hlen⟩ := length_eq_leadLength hrow h
  unfold utf8At
  split
  · rename_i row' hfind
    obtain ⟨b', rest', heq, hlen'⟩ := length_eq_leadLength (List.mem_of_find?_eq_some hfind)
      (by simpa using List.find?_some hfind)
    obtain ⟨rfl, rfl⟩ := List.cons.inj heq
    rw [hlen', hlen]
  · rename_i hfind
    exact absurd h (List.find?_eq_none.1 hfind row hrow)

/-! ### From symbols to bytes and back -/

section
variable {v : Sym} {lo0 hi0 lo1 hi1 : Nat}

/-- A row of length 3 matches a symbol of that length if its first two ranges do: the third is that of every continuation
byte. -/
theorem rowMatches_utf8_three (hlo : 0x800 ≤ v.toNat) (hhi : v.toNat ≤ 0xFFFF)
    (h0 : lo0 ≤ 0xE0 + v.toNat / 4096 ∧ 0xE0 + v.toNat / 4096 ≤ hi0)
    (h1 : lo1 ≤ 0x80 + v.toNat / 64 % 64 ∧ 0x80 + v.toNat / 64 % 64 ≤ hi1) (rest : List Byte) :
    rowMatches [(lo0, hi0), (lo1, hi1), (0x80, 0xBF)] (utf8 v ++ rest) = true := by
  simp only [utf8_three hlo hhi, List.cons_append, rowMatches, BitVec.toNat_ofNat, Bool.and_eq_true, decide_eq_true_eq,
    and_true]
  omega

/-- The same for a row of length 4. -/
theorem rowMatches_utf8_four (hlo : 0x10000 ≤ v.toNat)
    (h0 : lo0 ≤ 0xF0 + v.toNat / 262144 ∧ 0xF0 + v.toNat / 262144 ≤ hi0)
    (h1 : lo1 ≤ 0x80 + v.toNat / 4096 % 64 ∧ 0x80 + v.toNat / 4096 % 64 ≤ hi1) (rest : List Byte) :
    rowMatches [(lo0, hi0), (lo1, hi1), (0x80, 0xBF), (0x80, 0xBF)] (utf8 v ++ rest) = true := by
  have hv := v.isLt
  simp only [utf8_four hlo, List.cons_append, rowMatches, BitVec.toNat_ofNat, Bool.and_eq_true, decide_eq_true_eq,
    and_true]
  omega

/-- A scalar value of length 3 matches one of the four rows of that length: 0xE0 and 0xED are leading bytes with a
narrower second range, which keep out shorter values and surrogates. -/
theorem exists_row_three (hv : isScalar v = true) (hlo : 0x800 ≤ v.toNat) (hhi : v.toNat ≤ 0xFFFF) :
    ∃ row ∈ utf8Rows, row.length = 3 ∧ ∀ rest, rowMatches row (utf8 v ++ rest) = true := by
  rw [isScalar_iff] at hv
  have hlead : v.toNat < 0x1000 ∨ (0x1000 ≤ v.toNat ∧ v.toNat < 0xD000) ∨ (0xD000 ≤ v.toNat ∧ v.toNat < 0xD800)
      ∨ 0xE000 ≤ v.toNat := by
    omega
  rcases hlead with h | h | h | h
  · exact ⟨[(0xE0, 0xE0), (0xA0, 0xBF), (0x80, 0xBF)], by simp [utf8Rows], rfl,
      rowMatches_utf8_three hlo hhi (by omega) (by omega)⟩
  · exact ⟨[(0xE1, 0xEC), (0x80, 0xBF), (0x80, 0xBF)], by simp [utf8Rows], rfl,
      rowMatches_utf8_three hlo hhi (by omega) (by omega)⟩
  · exact ⟨[(0xED, 0xED), (0x80, 0x9F), (0x80, 0xBF)], by simp [utf8Rows], rfl,
      rowMatches_utf8_three hlo hhi (by omega) (by omega)⟩
  · exact ⟨[(0xEE, 0xEF), (0x80, 0xBF), (0x80, 0xBF)], by simp [utf8Rows], rfl,
      rowMatches_utf8_three hlo hhi (by omega) (by omega)⟩

/-- A scalar value of length 4 matches one of the three rows of that length. -/
theorem exists_row_four (hv : isScalar v = true) (hlo : 0x10000 ≤ v.toNat) :
    ∃ row ∈ utf8Rows, row.length = 4 ∧ ∀ rest, rowMatches row (utf8 v ++ rest) = true := by
  rw [isScalar_iff] at hv
  have hlead : v.toNat < 0x40000 ∨ (0x40000 ≤ v.toNat ∧ v.toNat < 0x100000) ∨ 0x100000 ≤ v.toNat := by omega
  rcases hlead with h | h | h
  · exact ⟨[(0xF0, 0xF0), (0x90, 0xBF), (0x80, 0xBF), (0x80, 0xBF)], by simp [utf8Rows], rfl,
      rowMatches_utf8_four hlo (by omega) (by omega)⟩
  · exact ⟨[(0xF1, 0xF3), (0x80, 0xBF), (0x80, 0xBF), (0x80, 0xBF)], by simp [utf8Rows], rfl,
      rowMatches_utf8_four hlo (by omega) (by omega)⟩
  · exact ⟨[(0xF4, 0xF4), (0x80, 0x8F), (0x80, 0xBF), (0x80, 0xBF)], by simp [utf8Rows], rfl,
      rowMatches_utf8_four hlo (by omega) (by omega)⟩

/-- The encoding of a scalar value matches a row of its length. -/
theorem exists_rowMatches_utf8 (hv : isScalar v = true) :
    ∃ row ∈ utf8Rows, row.length = utf8len v ∧ ∀ rest, rowMatches row (utf8 v ++ rest) = true := by
  obtain h | ⟨hlo, hhi⟩ | ⟨hlo, hhi⟩ | hlo := utf8len_cases v
  · refine ⟨[(0x00, 0x7F)], by simp [utf8Rows], (utf8len_one h).symm, fun rest => ?_⟩
    simp only [utf8_one h, List.cons_append, rowMatches, BitVec.toNat_ofNat, Bool.and_eq_true, decide_eq_true_eq,
      and_true]
    omega
  · refine ⟨[(0xC2, 0xDF), (0x80, 0xBF)], by simp [utf8Rows], (utf8len_two hlo hhi).symm, fun rest => ?_⟩
    simp only [utf8_two hlo hhi, List.cons_append, rowMatches, BitVec.toNat_ofNat, Bool.and_eq_true, decide_eq_true_eq,
      and_true]
    omega
  · rw [utf8len_three hlo hhi]
    exact exists_row_three hv hlo hhi
  · rw [utf8len_four hlo]
    exact exists_row_four hv hlo

end

/-- A scalar value is read from its encoding, whatever follows. -/
theorem utf8At_utf8_append {v : Sym} (hv : isScalar v = true) (rest : List Byte) :
    utf8At (utf8 v ++ rest) = some (v, utf8len v) := by
  obtain ⟨row, hrow, hlen, hmatch⟩ := exists_rowMatches_utf8 hv
  rw [utf8At_of_rowMatches hrow (hmatch rest), hlen, utf8Value_utf8]

section
variable {b0 b1 b2 b3 : Byte} (bs : List Byte)

theorem utf8_utf8Value_one (h0 : b0.toNat ≤ 0x7F) : utf8 (utf8Value 1 (b0 :: bs)) = [b0] := by
  have hv := utf8Value_one b0 bs
  rw [utf8_one (by omega), hv, ← eq_ofNat_of_toNat_eq rfl]

theorem utf8_utf8Value_two (hlo0 : 0xC2 ≤ b0.toNat) (hhi0 : b0.toNat ≤ 0xDF) (hlo1 : 0x80 ≤ b1.toNat)
    (hhi1 : b1.toNat ≤ 0xBF) : utf8 (utf8Value 2 (b0 :: b1 :: bs)) = [b0, b1] := by
  have hv := utf8Value_two b0 b1 bs
  rw [utf8_two (by omega) (by omega), ← eq_ofNat_of_toNat_eq (b := b0) (by omega),
    ← eq_ofNat_of_toNat_eq (b := b1) (by omega)]

theorem utf8_utf8Value_three (hlo0 : 0xE0 ≤ b0.toNat) (hhi0 : b0.toNat ≤ 0xEF) (hlo1 : 0x80 ≤ b1.toNat)
    (hhi1 : b1.toNat ≤ 0xBF) (h01 : b0.toNat = 0xE0 → 0xA0 ≤ b1.toNat) (hlo2 : 0x80 ≤ b2.toNat)
    (hhi2 : b2.toNat ≤ 0xBF) : utf8 (utf8Value 3 (b0 :: b1 :: b2 :: bs)) = [b0, b1, b2] := by
  have hv := utf8Value_three b0 b1 b2 bs
  rw [utf8_three (by omega) (by omega), ← eq_ofNat_of_toNat_eq (b := b0) (by omega),
    ← eq_ofNat_of_toNat_eq (b := b1) (by omega), ← eq_ofNat_of_toNat_eq (b := b2) (by omega)]

theorem utf8_utf8Value_four (hlo0 : 0xF0 ≤ b0.toNat) (hhi0 : b0.toNat ≤ 0xF4) (hlo1 : 0x80 ≤ b1.toNat)
    (hhi1 : b1.toNat ≤ 0xBF) (h01 : b0.toNat = 0xF0 → 0x90 ≤ b1.toNat) (hlo2 : 0x80 ≤ b2.toNat)
    (hhi2 : b2.toNat ≤ 0xBF) (hlo3 : 0x80 ≤ b3.toNat) (hhi3 : b3.toNat ≤ 0xBF) :
    utf8 (utf8Value 4 (b0 :: b1 :: b2 :: b3 :: bs)) = [b0, b1, b2, b3] := by
  have hv := utf8Value_four b0 b1 b2 b3 bs
  rw [utf8_four (by omega), ← eq_ofNat_of_toNat_eq (b := b0) (by omega),
    ← eq_ofNat_of_toNat_eq (b := b1) (by omega), ← eq_ofNat_of_toNat_eq (b := b2) (by omega),
    ← eq_ofNat_of_toNat_eq (b := b3) (by omega)]

end

/-- The bytes that match a row are the encoding of their value. -/
theorem take_eq_utf8_of_rowMatches {row : List (Nat × Nat)} {bs : List Byte} (hrow : row ∈ utf8Rows)
    (h : rowMatches row bs = true) : utf8 (utf8Value row.length bs) = bs.take row.length := by
  simp only [utf8Rows, List.mem_cons, List.not_mem_nil, or_false] at hrow
  rcases hrow with rfl | rfl | rfl | rfl | rfl | rfl | rfl | rfl | rfl
  · obtain ⟨b0, bs, rfl, -, hhi0, -⟩ := rowMatches_cons h
    exact utf8_utf8Value_one bs hhi0
  · obtain ⟨b0, bs, rfl, hlo0, hhi0, h⟩ := rowMatches_cons h
    obtain ⟨b1, bs, rfl, hlo1, hhi1, -⟩ := rowMatches_cons h
    exact utf8_utf8Value_two bs hlo0 hhi0 hlo1 hhi1
  iterate 4
    · obtain ⟨b0, bs, rfl, hlo0, hhi0, h⟩ := rowMatches_cons h
      obtain ⟨b1, bs, rfl, hlo1, hhi1, h⟩ := rowMatches_cons h
      obtain ⟨b2, bs, rfl, hlo2, hhi2, -⟩ := rowMatches_cons h
      apply utf8_utf8Value_three <;> omega
  iterate 3
    · obtain ⟨b0, bs, rfl, hlo0, hhi0, h⟩ := rowMatches_cons h
      obtain ⟨b1, bs, rfl, hlo1, hhi1, h⟩ := rowMatches_cons h
      obtain ⟨b2, bs, rfl, hlo2, hhi2, h⟩ := rowMatches_cons h
      obtain ⟨b3, bs, rfl, hlo3, hhi3, -⟩ := rowMatches_cons h
      apply utf8_utf8Value_four <;> omega

theorem length_le_of_rowMatches {row : List (Nat × Nat)} {bs : List Byte} (h : rowMatches row bs = true) :
    row.length ≤ bs.length := by
  induction row generalizing bs with
  | nil => exact Nat.zero_le _
  | cons r row ih =>
    obtain ⟨b, rest, rfl, -, -, h⟩ := rowMatches_cons h
    exact Nat.succ_le_succ (ih h)

/-- What is read are the bytes of the symbol, all of them. -/
theorem utf8At_take {bs : List Byte} {v : Sym} {n : Nat} (h : utf8At bs = some (v, n)) :
    n = utf8len v ∧ bs.take n = utf8 v := by
  obtain ⟨row, hrow, hmatch, rfl, rfl⟩ := utf8At_row h
  have htake := take_eq_utf8_of_rowMatches hrow hmatch
  refine ⟨?_, htake.symm⟩
  rw [← utf8_length, htake, List.length_take_of_le (length_le_of_rowMatches hmatch)]

/-- Settles O32: writing and reading are inverse to one another, row by row of R320. -/
theorem utf8RoundTrip : Obligations.Utf8RoundTrip := by
  unfold Obligations.Utf8RoundTrip
  exact ⟨fun v hv => ⟨utf8_length v, zero_mem_utf8 v, utf8At_utf8_append hv⟩,
    fun bs v n h => ⟨(utf8At_value h).1, utf8At_take h⟩⟩

end Sys2Proof.Machine
end

section
/-! PROOFS. LEB128 and the frequency-table segment: a count reads back, and no zero byte stands before the sentinel
(30_encoding.md R325 to R327; 45_encoder.md R660). -/

namespace Sys2Proof.Machine

/-! ### LEB128, group by group -/

theorem toNat_lastGroup {c : Nat} (h : c < 128) : (BitVec.ofNat 8 c).toNat = c :=
  Nat.mod_eq_of_lt (by omega)

theorem toNat_moreGroup (c : Nat) : (BitVec.ofNat 8 (c % 128 + 128)).toNat = c % 128 + 128 :=
  Nat.mod_eq_of_lt (by omega)

theorem readVarint_last {b : Byte} (h : b.toNat < 128) (bs : List Byte) :
    readVarint (b :: bs) = some (b.toNat, 1) := if_pos h

theorem readVarint_more {b : Byte} {bs : List Byte} {v n : Nat} (hb : 128 ≤ b.toNat) (h : readVarint bs = some (v, n)) :
    readVarint (b :: bs) = some (b.toNat % 128 + 128 * v, n + 1) := by
  simp [readVarint, Nat.not_lt.2 hb, h]

/-- The groups above the lowest one are fewer by one. -/
theorem div_lt_pow_of_lt {g c : Nat} (hc : c < 128 ^ (g + 1)) : c / 128 < 128 ^ g := by
  rwa [Nat.div_lt_iff_lt_mul (by decide), ← pow_succ]

/-- The groups of `c` read back as `c`, if they are enough to hold it. -/
theorem readVarint_lebGroups {g c : Nat} (rest : List Byte) (hc : c < 128 ^ (g + 1)) :
    readVarint (lebGroups (g + 1) c ++ rest) = some (c, (lebGroups (g + 1) c).length) := by
  induction g generalizing c with
  | zero =>
    have hlast := toNat_lastGroup (c := c) (by simpa using hc)
    rw [lebGroups, if_pos (by simpa using hc), List.singleton_append, readVarint_last (by omega), hlast]
    rfl
  | succ g ih =>
    rw [lebGroups]
    split
    · rename_i hlt
      have hlast := toNat_lastGroup hlt
      rw [List.singleton_append, readVarint_last (by omega), hlast]
      rfl
    · have hmore := toNat_moreGroup c
      rw [List.cons_append, readVarint_more (by omega) (ih (div_lt_pow_of_lt hc)), hmore, List.length_cons]
      congr 2
      omega

/-- A count of at least 1 has groups with bit 7 set, and then a last one that is neither 0 nor has bit 7 set. -/
theorem lebGroups_eq_append {g c : Nat} (hpos : c ≠ 0) (hc : c < 128 ^ g) :
    ∃ init last, lebGroups g c = init ++ [last] ∧ (∀ b ∈ init, 128 ≤ b.toNat) ∧ last.toNat ≠ 0 ∧ last.toNat < 128 := by
  induction g generalizing c with
  | zero => exact absurd (Nat.lt_one_iff.1 hc) hpos
  | succ g ih =>
    rw [lebGroups]
    split
    · rename_i hlt
      have hlast := toNat_lastGroup hlt
      exact ⟨[], _, rfl, by simp, by omega, by omega⟩
    · obtain ⟨init, last, heq, hinit, hlast⟩ := ih (c := c / 128) (by omega) (div_lt_pow_of_lt hc)
      have hmore := toNat_moreGroup c
      exact ⟨_ :: init, last, congrArg (_ :: ·) heq, List.forall_mem_cons.2 ⟨by omega, hinit⟩, hlast⟩

theorem lt_pow_of_word (c : Word) : c.toNat < 128 ^ 5 := Nat.lt_of_lt_of_le c.isLt (by decide)

/-- Settles O33: five groups hold every 32-bit count. -/
theorem lebRoundTrip : Obligations.LebRoundTrip := by
  unfold Obligations.LebRoundTrip
  exact fun c rest =>
    ⟨leb_length c, (readVarint_lebGroups rest (lt_pow_of_word c)).trans (by rw [← leb_length]; rfl)⟩

/-! ### No zero byte before the sentinel -/

/-- `leb` of a count of at least 1. -/
theorem leb_eq_append {c : Word} (hc : c ≠ 0) :
    ∃ init last, leb c = init ++ [last] ∧ (∀ b ∈ init, 128 ≤ b.toNat) ∧ last.toNat ≠ 0 ∧ last.toNat < 128 :=
  lebGroups_eq_append (fun h0 => hc (BitVec.eq_of_toNat_eq h0)) (lt_pow_of_word c)

theorem getLsbD_seven (b : Byte) : b.getLsbD 7 = decide (128 ≤ b.toNat) := b.msb_eq_getLsbD_last ▸ b.msb_eq_decide

theorem zero_not_mem_leb {c : Word} (hc : c ≠ 0) : 0#8 ∉ leb c := by
  obtain ⟨init, last, heq, hinit, hlast, -⟩ := leb_eq_append hc
  rw [heq, List.mem_append, List.mem_singleton]
  rintro (hmem | rfl)
  · exact absurd (hinit _ hmem) (by decide)
  · exact hlast rfl

theorem ne_zero_of_symOk {v : Sym} (h : symOk v = true) : v ≠ 0 := by
  rintro rfl
  exact nomatch h

theorem zero_not_mem_serialiseFt {f : List FtEntry} (hf : ∀ e ∈ f, symOk e.sym = true ∧ e.count ≠ 0) :
    0#8 ∉ serialiseFt f := by
  induction f with
  | nil => exact List.not_mem_nil
  | cons e f ih =>
    obtain ⟨⟨hsym, hcount⟩, hf⟩ := List.forall_mem_cons.1 hf
    rw [serialiseFt, List.mem_append, List.mem_append, zero_mem_utf8]
    rintro ((hzero | hmem) | hmem)
    · exact ne_zero_of_symOk hsym hzero
    · exact zero_not_mem_leb hcount hmem
    · exact ih hf hmem

/-- The sentinel is the first zero byte. -/
theorem sentinelAt_append_zero {bs : List Byte} (hbs : 0#8 ∉ bs) (rest : List Byte) :
    sentinelAt (bs ++ 0#8 :: rest) = some bs.length := by
  induction bs with
  | nil => rfl
  | cons b bs ih =>
    obtain ⟨hb, hbs⟩ := not_or.1 (List.mem_cons.not.1 hbs)
    simp [sentinelAt, Ne.symm hb, ih hbs]

/-- Settles O34: the groups of a count by `leb_eq_append`, the segment entry by entry, and the artifact because ENCODE counts
supported symbols only. -/
theorem ftSegmentHasNoZero : Obligations.FtSegmentHasNoZero := by
  unfold Obligations.FtSegmentHasNoZero
  refine ⟨fun c hc => ⟨zero_not_mem_leb hc, ?_⟩, fun f => zero_not_mem_serialiseFt, fun m cap text r h => ?_⟩
  · obtain ⟨init, last, heq, hinit, hne, hlt⟩ := leb_eq_append hc
    simp only [heq, List.dropLast_concat, List.getLast?_concat, getLsbD_seven]
    exact ⟨fun b hb => decide_eq_true (hinit b hb), last, rfl, fun h0 => hne (congrArg BitVec.toNat h0),
      decide_eq_false (Nat.not_le.2 hlt)⟩
  · obtain ⟨⟨total, hcount⟩, -, -, -, -, -, -, hbytes⟩ := encodeText_ok h
    obtain ⟨-, hentries, -⟩ := (ftWf_iff m r.ft).1 (countText_ftWf hcount)
    have hseg := zero_not_mem_serialiseFt fun e he => by simpa [entryOk] using hentries e he
    rw [hbytes, artifact, List.append_assoc, List.append_assoc]
    exact sentinelAt_append_zero hseg _

end Sys2Proof.Machine
end

section
/-! PROOFS. Bit packing: the stream bits, byte after byte, and the two directions of R335 (30_encoding.md R334, R335). -/

namespace Sys2Proof.Machine

theorem byteBits_getElem? (b : Byte) {i : Nat} (hi : i < 8) : (byteBits b)[i]? = some (b.getLsbD (7 - i)) := by
  interval_cases i <;> rfl

theorem byteBits_length (b : Byte) : (byteBits b).length = 8 := rfl

theorem flatMap_byteBits_length (packed : List Byte) : (packed.flatMap byteBits).length = 8 * packed.length := by
  simp [List.length_flatMap, byteBits_length, Nat.mul_comm]

/-- Stream bit i is bit 7 - (i mod 8) of byte i div 8. -/
theorem flatMap_byteBits_getElem? (packed : List Byte) (i : Nat) :
    (packed.flatMap byteBits)[i]? = (packed[i / 8]?).map (fun b => b.getLsbD (7 - i % 8)) := by
  induction packed generalizing i with
  | nil => simp
  | cons b packed ih =>
    rw [List.flatMap_cons]
    rcases Nat.lt_or_ge i 8 with hi | hi
    · rw [List.getElem?_append_left hi, byteBits_getElem? b hi, Nat.div_eq_of_lt hi, Nat.mod_eq_of_lt hi]
      rfl
    · obtain ⟨j, rfl⟩ := Nat.exists_eq_add_of_le' hi
      rw [List.getElem?_append_right hi, byteBits_length, Nat.add_sub_cancel, ih, Nat.add_div_right _ (by decide),
        Nat.add_mod_right, List.getElem?_cons_succ]

/-! ### The bit writer -/

/-- The writer's mask sets stream bit `k` of the byte. -/
theorem byteBits_or_mask (acc : Byte) {k : Nat} (hk : k < 8) :
    byteBits (acc ||| (0x80#8 >>> k)) = (byteBits acc).set k true := by
  interval_cases k <;> simp [byteBits]

/-- A byte whose bits so far are `p`, padded with 0, with one more bit written. -/
theorem byteBits_write {acc : Byte} {p : Bits} {n : Nat} (hacc : byteBits acc = p ++ List.replicate (n + 1) false)
    (b : Bool) : byteBits (if b then acc ||| (0x80#8 >>> p.length) else acc)
      = (p ++ [b]) ++ List.replicate n false := by
  have hlen := congrArg List.length hacc
  simp only [byteBits_length, List.length_append, List.length_replicate] at hlen
  cases b with
  | false => simp [hacc, List.replicate_succ]
  | true =>
    rw [if_pos rfl, byteBits_or_mask acc (by omega), hacc, List.replicate_succ]
    simp

/-- What `packFrom` packs: the bits already in the byte being filled, the bits to come, and zeros to the end of the last
byte. -/
theorem flatMap_packFrom {acc : Byte} {k : Nat} {p : Bits} (hp : p.length = k) (hk : k < 8)
    (hacc : byteBits acc = p ++ List.replicate (8 - k) false) (bits : Bits) :
    (packFrom acc k bits).flatMap byteBits
      = p ++ bits ++ List.replicate (8 * ceilDiv8 (k + bits.length) - (k + bits.length)) false := by
  induction bits generalizing acc k p with
  | nil =>
    subst hp
    unfold packFrom ceilDiv8
    split
    · have : p = [] := List.length_eq_zero_iff.1 ‹_›
      simp [this]
    · have hpad : 8 * ((p.length + 7) / 8) - p.length = 8 - p.length := by omega
      simp [hacc, hpad]
  | cons b bits ih =>
    subst hp
    have hwrite := byteBits_write (n := 7 - p.length) (by rw [hacc]; congr 2; omega) b
    simp only [packFrom]
    split
    · rename_i h7
      have hrest := ih (acc := 0) (k := 0) (p := []) rfl (by decide) rfl
      have hpad : 8 * ceilDiv8 (0 + bits.length) - (0 + bits.length)
          = 8 * ceilDiv8 (7 + (bits.length + 1)) - (7 + (bits.length + 1)) := by
        unfold ceilDiv8
        omega
      rw [List.flatMap_cons, hwrite, hrest, h7, hpad, List.length_cons]
      simp
    · have hwritten := ih (k := p.length + 1) (p := p ++ [b]) (by simp) (by omega)
        (by rw [hwrite, Nat.add_comm, Nat.sub_add_eq])
      rw [hwritten, List.length_cons, Nat.add_right_comm, Nat.add_assoc]
      simp

/-- The packed bytes hold the bits, and then zeros to the end of the last byte. -/
theorem flatMap_packBits (bits : Bits) : (packBits bits).flatMap byteBits
    = bits ++ List.replicate (8 * ceilDiv8 bits.length - bits.length) false := by
  have h := flatMap_packFrom (acc := 0) (p := []) rfl (by decide) rfl bits
  simpa [packBits] using h

theorem packBits_length (bits : Bits) : (packBits bits).length = ceilDiv8 bits.length := by
  rw [packBits, packFrom_length 0 (by decide), Nat.zero_add]

/-- Settles O35: both clauses are `flatMap_byteBits_getElem?`, for the packer over the bits and their padding. -/
theorem packedBitsLayout : Obligations.PackedBitsLayout := by
  unfold Obligations.PackedBitsLayout
  refine ⟨fun bits => ⟨packBits_length bits, fun i hi => ?_⟩, fun n packed hn => ⟨?_, fun i hi => ?_⟩⟩
  · rw [← flatMap_byteBits_getElem?, flatMap_packBits]
    rcases Nat.lt_or_ge i bits.length with h | h
    · simp [List.getElem?_append_left h, h]
    · rw [List.getElem?_append_right h, List.getElem?_replicate_of_lt (by omega)]
      simp [h]
  · rw [streamBits, List.length_take, flatMap_byteBits_length, Nat.min_eq_left hn]
  · rw [streamBits, List.getElem?_take_of_lt hi, flatMap_byteBits_getElem?]

end Sys2Proof.Machine
end

section
/-! PROOFS. COUNT of a text of supported symbols (42_frequency_counter.md R500, R510). -/

namespace Sys2Proof.Machine

/-! ### The symbols of an encoded text (30_encoding.md R322) -/

theorem utf8_ne_nil (v : Sym) : utf8 v ≠ [] := by
  intro h0
  have hlen := utf8_length v
  rw [h0, utf8len] at hlen
  split_ifs at hlen

/-- The bytes still to pass over are passed over. -/
theorem textSymbols_skip (o : Nat) (bs rest : List Byte) :
    textSymbols bs.length o (bs ++ rest) = textSymbols 0 (o + bs.length) rest := by
  induction bs generalizing o with
  | nil => rfl
  | cons b bs ih => rw [List.length_cons, List.cons_append, textSymbols, ih, Nat.add_right_comm, Nat.add_assoc]

/-- An encoded symbol is the next symbol of the text, at the offset where it begins. -/
theorem textSymbols_utf8_append {v : Sym} (hv : isScalar v = true) (o : Nat) (rest : List Byte) :
    textSymbols 0 o (utf8 v ++ rest) = (o, some v) :: textSymbols 0 (o + (utf8 v).length) rest := by
  have hat := utf8At_utf8_append hv rest
  rw [← utf8_length] at hat
  obtain ⟨b, bs, hbytes⟩ := List.exists_cons_of_ne_nil (utf8_ne_nil v)
  rw [hbytes, List.cons_append] at hat ⊢
  rw [textSymbols, hat, List.length_cons, Nat.add_comm bs.length, ← Nat.add_assoc, ← textSymbols_skip]
  simp

theorem isScalar_of_symOk {v : Sym} (h : symOk v = true) : isScalar v = true := (Bool.and_eq_true_iff.1 h).1

theorem textOf_cons_append (v : Sym) (syms : List Sym) (rest : List Byte) :
    textOf (v :: syms) ++ rest = utf8 v ++ (textOf syms ++ rest) := by
  simp [textOf]

/-- A text has a byte at least for each symbol. -/
theorem length_le_length_textOf (syms : List Sym) : syms.length ≤ (textOf syms).length := by
  induction syms with
  | nil => exact Nat.le_refl 0
  | cons v syms ih =>
    have hpos := List.length_pos_of_ne_nil (utf8_ne_nil v)
    have hlen : (textOf (v :: syms)).length = (utf8 v).length + (textOf syms).length := List.length_append
    rw [List.length_cons]
    omega

/-! ### Tallies (42_frequency_counter.md R500, R505) -/

/-- What a table holds after a symbol's count is set. -/
theorem mem_ftSet_iff {v : Sym} {c : Word} {f : List FtEntry} (hr : ftRises f = true) {x : FtEntry} :
    x ∈ ftSet v c f ↔ x = ⟨v, c⟩ ∨ (x ∈ f ∧ x.sym ≠ v) := by
  cases hl : ftLookup v f with
  | none =>
    have hne := ftLookup_eq_none hl
    rw [(ftSet_perm_of_absent c hne).mem_iff, List.mem_cons]
    exact or_congr_right ⟨fun hx => ⟨hx, hne x hx⟩, And.left⟩
  | some c' =>
    obtain ⟨l, r, rfl, hset⟩ := ftSet_of_present c hr (mem_of_ftLookup hl)
    have hnodup := (List.perm_middle.map FtEntry.sym).nodup_iff.1 (nodup_of_ftRises hr)
    have hout : ∀ y ∈ l ++ r, y.sym ≠ v := fun y hy heq =>
      (List.nodup_cons.1 hnodup).1 (List.mem_map.2 ⟨y, hy, heq⟩)
    rw [hset, List.perm_middle.mem_iff, List.perm_middle.mem_iff, List.mem_cons, List.mem_cons]
    refine or_congr_right ⟨fun hx => ⟨.inr hx, hout x hx⟩, fun ⟨hx, hne⟩ => hx.resolve_left ?_⟩
    rintro rfl
    exact hne rfl

theorem Tally.nil : Tally [] [] := ⟨rfl, by simp⟩

section
variable {f g : List FtEntry} {syms pre : List Sym} {v : Sym}

theorem Tally.nodup (hf : Tally f syms) : (f.map (·.sym)).Nodup := nodup_of_ftRises hf.1

/-- A text has one tally. -/
theorem Tally.unique (hf : Tally f syms) (hg : Tally g syms) : f = g := by
  have hperm : f.Perm g := (List.perm_ext_iff_of_nodup hf.nodup.of_map hg.nodup.of_map).2 fun e =>
    (hf.2 e.sym e.count).trans (hg.2 e.sym e.count).symm
  exact hperm.eq_of_pairwise (fun a b _ _ hab hba => absurd hab hba.asymm) ((ftRises_iff f).1 hf.1)
    ((ftRises_iff g).1 hg.1)

/-- The symbols of a tally are those of the text, if their counts fit 32 bits. -/
theorem Tally.mem_map_sym (hf : Tally f syms) (hlen : syms.length ≤ maxU32) :
    v ∈ f.map (·.sym) ↔ v ∈ syms := by
  constructor
  · intro h
    obtain ⟨e, he, rfl⟩ := List.mem_map.1 h
    exact ((hf.2 e.sym e.count).1 he).1
  · intro hv
    have hcount : (BitVec.ofNat 32 (syms.count v)).toNat = syms.count v := by
      have hle := List.count_le_length (a := v) (l := syms)
      unfold maxU32 at hlen
      rw [BitVec.toNat_ofNat, Nat.mod_eq_of_lt (by omega)]
    exact List.mem_map_of_mem (f := (·.sym)) ((hf.2 v _).2 ⟨hv, hcount⟩)

/-- Setting a symbol's count to one more makes the tally of the text with that symbol. -/
theorem Tally.ftSet (hg : Tally g pre) {c : Word} (hc : c.toNat = pre.count v + 1) :
    Tally (ftSet v c g) (pre ++ [v]) := by
  refine ⟨ftRises_ftSet v c hg.1, fun w d => ?_⟩
  rw [mem_ftSet_iff hg.1, hg.2 w d]
  by_cases hw : w = v
  · subst hw
    simp [← BitVec.toNat_inj, hc]
  · simp [hw, Ne.symm hw]

/-- A symbol that the text so far does not have needs one more entry. -/
theorem Tally.length_lt (hg : Tally g pre) (hf : Tally f (pre ++ syms)) (hlen : (pre ++ syms).length ≤ maxU32)
    (hpre : v ∉ pre) (hv : v ∈ syms) : g.length < f.length := by
  have hlen' : pre.length ≤ maxU32 := by
    rw [List.length_append] at hlen
    omega
  have hnodup : (v :: g.map (·.sym)).Nodup := List.nodup_cons.2 ⟨fun h => hpre ((hg.mem_map_sym hlen').1 h), hg.nodup⟩
  have hsubset : v :: g.map (·.sym) ⊆ f.map (·.sym) := by
    intro w hw
    rw [hf.mem_map_sym hlen, List.mem_append]
    rcases List.mem_cons.1 hw with rfl | hw
    · exact .inr hv
    · exact .inl ((hg.mem_map_sym hlen').1 hw)
  simpa using (List.subperm_of_subset hnodup hsubset).length_le

end

/-! ### The counting loop -/

/-- One symbol that is supported and fits makes the tally of the text with that symbol. -/
theorem countLoop_symbol {m o total : Nat} {g : List FtEntry} {pre : List Sym} {v : Sym} (hv : v ≠ 0)
    (hg : Tally g pre) (hlen : pre.length < maxU32) (hroom : v ∉ pre → g.length ≠ m) (rest : List (Nat × Option Sym)) :
    ∃ g', Tally g' (pre ++ [v]) ∧ countLoop m ((o, some v) :: rest) g total = countLoop m rest g' (total + 1) := by
  cases hl : ftLookup v g with
  | none =>
    have hpre : v ∉ pre := fun hmem => by
      obtain ⟨e, he, hsym⟩ := List.mem_map.1 ((hg.mem_map_sym hlen.le).2 hmem)
      exact ftLookup_eq_none hl e he hsym
    refine ⟨ftSet v 1 g, hg.ftSet (by rw [List.count_eq_zero_of_not_mem hpre]; rfl), ?_⟩
    rw [countLoop, if_neg hv, hl]
    simp only [if_neg (hroom hpre)]
  | some c =>
    obtain ⟨-, hc⟩ := (hg.2 v c).1 (mem_of_ftLookup hl)
    have hle := List.count_le_length (a := v) (l := pre)
    have hmax : c.toNat ≠ maxU32 := by omega
    refine ⟨ftSet v (c + 1) g, hg.ftSet ?_, ?_⟩
    · unfold maxU32 at hlen
      bv_omega
    · rw [countLoop, if_neg hv, hl]
      simp only [if_neg hmax]

/-- Counting on over supported symbols that fit, from the tally of the text so far, leads to the tally of the whole, at the
offset where what follows begins. -/
theorem countLoop_textOf_append {m : Nat} {f : List FtEntry} {syms : List Sym} (rest : List Byte) {o total : Nat}
    {g : List FtEntry} {pre : List Sym} (hg : Tally g pre) (hf : Tally f (pre ++ syms))
    (hsyms : ∀ v ∈ syms, symOk v = true) (hlen : (pre ++ syms).length ≤ maxU32) (hm : f.length ≤ m) :
    countLoop m (textSymbols 0 o (textOf syms ++ rest)) g total
      = countLoop m (textSymbols 0 (o + (textOf syms).length) rest) f (total + syms.length) := by
  induction syms generalizing o total g pre with
  | nil =>
    rw [List.append_nil] at hf
    rw [hg.unique hf]
    rfl
  | cons v syms ih =>
    obtain ⟨hv, hsyms⟩ := List.forall_mem_cons.1 hsyms
    have hroom : v ∉ pre → g.length ≠ m := fun hpre => by
      have := hg.length_lt hf hlen hpre List.mem_cons_self
      omega
    have hlt : pre.length < maxU32 := by
      rw [List.length_append, List.length_cons] at hlen
      omega
    obtain ⟨g', hg', hstep⟩ := countLoop_symbol (ne_zero_of_symOk hv) hg hlt hroom
      (textSymbols 0 (o + (utf8 v).length) (textOf syms ++ rest))
    rw [List.append_cons] at hf hlen
    rw [textOf_cons_append, textSymbols_utf8_append (isScalar_of_symOk hv), hstep, ih hg' hf hsyms hlen]
    simp [textOf, Nat.add_assoc, Nat.add_comm 1]

theorem countText_textOf {m : Nat} {f : List FtEntry} {syms : List Sym} (hf : Tally f syms)
    (hsyms : ∀ v ∈ syms, symOk v = true) (hlen : syms.length ≤ maxU32) (hm : f.length ≤ m) :
    countText m (textOf syms) = .ok (f, syms.length) := by
  have h := countLoop_textOf_append [] (o := 0) (total := 0) Tally.nil hf hsyms hlen hm
  simpa [countText, textSymbols, countLoop] using h

/-- Settles O29: a text of the source region has fewer than 2^32 symbols, so no count overflows. -/
theorem countTalliesText : Obligations.CountTalliesText := by
  unfold Obligations.CountTalliesText
  intro s syms f hsrc htext hsyms hf hm
  have hlen : syms.length ≤ maxU32 := by
    have hbytes : (textOf syms).length = s.srcLen.toNat := by rw [← htext, sourceBytes, memRead_length]
    have hle := length_le_length_textOf syms
    have hlt := s.srcLen.isLt
    unfold maxU32
    omega
  have hcount : countCommand s = .ok (f, syms.length) := by
    rw [countCommand, (checkSrc_ok s).2 hsrc, htext]
    exact countText_textOf hf hsyms hlen hm
  rw [exec, execCount, hcount]
  rfl

end Sys2Proof.Machine
end

section
/-! PROOFS. The host's interface: what a CSR write does, what an aligned read hands the host, BUF bytes, and the table window
(40_host_interface.md). -/

namespace Sys2Proof.Machine

/-! ### Writing a CSR (40_host_interface.md R402 to R407) -/

theorem csrWrite_listed {off : BitVec 8} {c : Csr} (hok : csrAccessOk .word off = true) (hc : csrAt off = some c)
    (v : Word) (s : State) : csrWrite .word off v s = csrWriteTo v s c := by
  simp [csrWrite, hok, hc]

theorem csrWrite_unlisted {off : BitVec 8} (hc : csrAt off = none) (v : Word) (s : State) :
    csrWrite .word off v s = s := by
  simp [csrWrite, hc]

theorem csrWrite_status (v : Word) (s : State) : csrWrite .word 0x18#8 v s = statusW1C v s :=
  csrWrite_listed (c := .status) rfl rfl v s

theorem idleWrite_idle (f : State → State) {s : State} (hp : s.phase = .idle) : idleWrite f s = f s := by
  simp [idleWrite, hp]

theorem idleWrite_busy (f : State → State) {s : State} (hp : s.phase = .busy) : idleWrite f s = dropWrite s := by
  simp [idleWrite, hp]

theorem statusW1C_eq (v : Word) (s : State) :
    statusW1C v s = { s with done := s.done && !v.getLsbD 1, dropped := s.dropped && !v.getLsbD 6 } := by
  simp only [statusW1C, Bool.if_false_left, Bool.decide_eq_true, Bool.and_comm]

/-- Settles O5: the write of a word to CMD is its acceptance. -/
theorem cmdWriteAccepts : Obligations.CmdWriteAccepts := by
  unfold Obligations.CmdWriteAccepts
  intro s w hp
  rw [hostAct, csrWrite_listed (c := .cmd) rfl rfl, csrWriteTo, idleWrite_idle _ hp]
  rfl

/-- Settles O6: each of the five registers is written by `idleWrite`. -/
theorem busyWritesDropped : Obligations.BusyWritesDropped := by
  unfold Obligations.BusyWritesDropped
  intro s off v hp hoff
  have hwrite : ∃ f, csrWrite .word off v s = idleWrite f s := by
    fin_cases hoff
    · exact ⟨accept v, rfl⟩
    · exact ⟨fun s => { s with srcAddr := v }, rfl⟩
    · exact ⟨fun s => { s with srcLen := v }, rfl⟩
    · exact ⟨fun s => { s with dstAddr := v }, rfl⟩
    · exact ⟨fun s => { s with dstCap := v }, rfl⟩
  obtain ⟨f, hf⟩ := hwrite
  rw [hf, idleWrite_busy f hp]
  rfl

/-- Settles O7: the operand CSRs by `idleWrite_idle`, and the arms of the other three registers ask for no phase. -/
theorem writesTakeEffect : Obligations.WritesTakeEffect := by
  unfold Obligations.WritesTakeEffect
  intro s v
  refine ⟨fun hp => ?_, rfl, rfl, rfl⟩
  rw [csrWrite_listed (c := .srcAddr) rfl rfl, csrWrite_listed (c := .srcLen) rfl rfl,
    csrWrite_listed (c := .dstAddr) rfl rfl, csrWrite_listed (c := .dstCap) rfl rfl]
  simp only [csrWriteTo, idleWrite_idle _ hp, and_self]

/-- Settles O8: the write is `statusW1C`, and irq needs DONE. -/
theorem statusWriteClears : Obligations.StatusWriteClears := by
  unfold Obligations.StatusWriteClears
  intro s v
  rw [csrWrite_status]
  exact ⟨statusW1C_eq v s, fun hv => by simp [irq, hv]⟩

/-- TBL_SEL takes bits 1:0 of the word written, so the others are ignored. -/
theorem extractLsb'_and_selMask (v : Word) : (v &&& 0x00000003#32).extractLsb' 0 2 = v.extractLsb' 0 2 := by
  rw [BitVec.extractLsb'_and]
  exact BitVec.and_allOnes

/-- Settles O9: no arm of a write sets a read-only register, no register is listed from 0x68 on, and the arms of CTRL, TBL_SEL
and STATUS look only at the bits of the mask. -/
theorem readOnlyWritesIgnored : Obligations.ReadOnlyWritesIgnored := by
  unfold Obligations.ReadOnlyWritesIgnored
  intro s v
  refine ⟨fun off hoff => ?_, fun off hlarge => csrWrite_unlisted (csrAt_unlisted hlarge) v s, ?_, ?_, ?_, rfl⟩
  · fin_cases hoff <;> rfl
  · rw [csrWrite_listed (c := .ctrl) rfl rfl, csrWrite_listed (c := .ctrl) rfl rfl]
    simp [csrWriteTo]
  · rw [csrWrite_listed (c := .tblSel) rfl rfl, csrWrite_listed (c := .tblSel) rfl rfl]
    simp only [csrWriteTo, extractLsb'_and_selMask]
  · rw [csrWrite_status, csrWrite_status, statusW1C_eq, statusW1C_eq]
    simp

/-! ### Aligned reads (40_host_interface.md R401) -/

/-- The offsets of the registers that R142 lists. -/
theorem any_csrOpenWhileBusy_csrAt (off : BitVec 8) : (csrAt off).any csrOpenWhileBusy = true ↔
    off ∈ [0x18#8, 0x40#8, 0x44#8, 0x48#8, 0x54#8, 0x58#8, 0x5C#8, 0x60#8, 0x64#8] := by
  constructor
  · intro h
    unfold csrAt at h
    split at h <;> simp_all [csrOpenWhileBusy, ← BitVec.toNat_inj]
  · intro h
    fin_cases h <;> rfl

/-- An aligned read takes a free value iff R142 lists its register and the block is BUSY. -/
theorem csrReadDraws_word (s : State) {off : BitVec 8} (hok : csrAccessOk .word off = true) :
    csrReadDraws s .word off = if s.phase = .busy ∧ (csrAt off).any csrOpenWhileBusy = true then 1 else 0 := by
  cases hc : csrAt off <;> simp [csrReadDraws, hok, hc]

theorem waitOnce_of_done {s : State} (h : s.done = true) : waitOnce s = csrRead .word 0x18#8 s := by
  simp [waitOnce, h]

theorem waitOnce_of_not_done {s : State} (h : s.done = false) :
    waitOnce s = { csrRead .word 0x18#8 s with hostOps := .wait :: s.hostOps } := by
  simp [waitOnce, h]

/-- Settles O60: a read of an aligned word hands over its value and counts its draws; a wait is that read of STATUS. -/
theorem alignedReadsHandValues : Obligations.AlignedReadsHandValues := by
  unfold Obligations.AlignedReadsHandValues
  intro s
  refine ⟨fun off hoff => ?_, fun hdone => ?_, fun hdone => ⟨_, rfl, ?_⟩⟩
  · have hok : csrAccessOk .word off = true := by simp [csrAccessOk, hoff]
    rw [hostAct, csrRead_of_ok hok, csrReadDraws_word s hok]
    simp only [any_csrOpenWhileBusy_csrAt, add_ite, Nat.add_zero]
  · exact congrArg Host.Outcome.next (waitOnce_of_done hdone)
  · exact congrArg Host.Outcome.next (waitOnce_of_not_done hdone)

/-! ### BUF bytes (40_host_interface.md R410, R411) -/

section
variable {s : State} {a : Word}

theorem bufRead_inside (ha : a.toNat < s.cfgBufSize.toNat) (hduty : readBreaksDuty s a.toNat = false) :
    bufRead a s = .next (giveHost [(readByte s a.toNat).setWidth 32] s) := by
  simp [bufRead, Nat.not_le.2 ha, hduty]

theorem bufWrite_inside (v : Word) (ha : a.toNat < s.cfgBufSize.toNat) (hduty : writeBreaksDuty s a.toNat = false) :
    bufWrite a v s = .next (memWrite a.toNat [v.extractLsb' 0 8] s) := by
  simp [bufWrite, Nat.not_le.2 ha, hduty, memWrite, Memory.writeList]

theorem bufRead_outside (ha : s.cfgBufSize.toNat ≤ a.toNat) : bufRead a s = .refused .outsideBuf := if_pos ha

theorem bufWrite_outside (v : Word) (ha : s.cfgBufSize.toNat ≤ a.toNat) : bufWrite a v s = .refused .outsideBuf :=
  if_pos ha

end

/-- Settles O18: inside BUF a write stores a list of one byte, so the laws of `memWrite` say what is read afterwards. -/
theorem bufByteAccess : Obligations.BufByteAccess := by
  unfold Obligations.BufByteAccess
  intro s a v
  refine ⟨bufRead_inside, fun ha hduty => ?_, fun ha => ⟨bufRead_outside ha, bufWrite_outside v ha⟩⟩
  refine ⟨_, bufWrite_inside v ha hduty, readByte_memWrite_inside s a.toNat 0 [v.extractLsb' 0 8] Nat.one_pos,
    fun b hb => ?_, rfl⟩
  refine readByte_memWrite_outside s a.toNat b _ ?_
  simp only [List.length_singleton]
  omega

/-! ### The table window (40_host_interface.md R420 to R423) -/

/-- The words of a window in the order of their offsets. -/
def WindowWords.toList (w : WindowWords) : List Word := [w.d0, w.d1, w.d2, w.d3, w.d4]

section
variable {s : State} (hp : s.phase = .idle)
include hp

/-- While IDLE the host reads the five words of `window`. -/
theorem windowReads_idle : windowReads s = (window s).toList := by
  simp only [windowReads, csrReadValue_idle (off := 0x54#8) hp rfl rfl, csrReadValue_idle (off := 0x58#8) hp rfl rfl,
    csrReadValue_idle (off := 0x5C#8) hp rfl rfl, csrReadValue_idle (off := 0x60#8) hp rfl rfl,
    csrReadValue_idle (off := 0x64#8) hp rfl rfl]
  rfl

theorem windowReads_ft (hsel : s.tblSel = 0) :
    windowReads s = (windowEntry s.ft (ftCount s) s.tblIdx.toNat ftView).toList := by
  simp [windowReads_idle hp, window, hsel]

theorem windowReads_nodes (hsel : s.tblSel = 1) :
    windowReads s = (windowEntry s.nodes (nodeCount s) s.tblIdx.toNat nodeView).toList := by
  simp [windowReads_idle hp, window, hsel]

theorem windowReads_ct (hsel : s.tblSel = 2) :
    windowReads s = (windowEntry s.ct (ftCount s) s.tblIdx.toNat ctView).toList := by
  simp [windowReads_idle hp, window, hsel]

theorem windowReads_none (hsel : s.tblSel = 3) : windowReads s = windowZero.toList := by
  simp [windowReads_idle hp, window, hsel]

end

section
variable {α : Type} {n i : Nat} (view : α → WindowWords)

/-- An absent table, or an index out of range, shows zeros. -/
theorem windowEntry_absent {table : Option (List α)} (h : table = none ∨ n ≤ i) :
    windowEntry table n i view = windowZero := by
  rcases h with rfl | h
  · rfl
  · cases table with
    | none => rfl
    | some t => exact if_neg (Nat.not_lt.2 h)

theorem windowEntry_present {t : List α} {e : α} (hi : i < n) (he : t[i]? = some e) :
    windowEntry (some t) n i view = view e := by
  simp [windowEntry, hi, he]

end

theorem ftCount_some {s : State} {f : List FtEntry} (hf : s.ft = some f) : ftCount s = f.length := by
  simp [ftCount, hf]

theorem nodeCount_le (s : State) : nodeCount s ≤ 2 * ftCount s - 1 := by
  unfold nodeCount
  split <;> omega

/-- The NODE view shows the entry at an index below 2n - 1. -/
theorem windowReads_node {s : State} {f : List FtEntry} {ns : List Node} {e : Node} (hp : s.phase = .idle)
    (hsel : s.tblSel = 1) (hf : s.ft = some f) (hn : s.nodes = some ns) (hi : s.tblIdx.toNat < 2 * f.length - 1)
    (he : ns[s.tblIdx.toNat]? = some e) : windowReads s = (nodeView e).toList := by
  have hcount : nodeCount s = 2 * f.length - 1 := by simp [nodeCount, treeValid, hn, ftCount_some hf]
  rw [windowReads_nodes hp hsel, hn, windowEntry_present nodeView (hcount ▸ hi) he]

/-- Settles O14: zeros by `windowEntry_absent`, the views by `windowEntry_present`. -/
theorem windowShowsTables : Obligations.WindowShowsTables := by
  unfold Obligations.WindowShowsTables
  intro s hp
  refine ⟨fun hsel => windowReads_none hp hsel, fun hsel h => ?_, fun hsel h => ?_, fun hsel h => ?_,
    fun f e hsel hf he => ?_, fun f ns w v hsel hf hn hi he => windowReads_node hp hsel hf hn hi he,
    fun f ns w l r q hsel hf hn hi he => windowReads_node hp hsel hf hn hi he⟩
  · rw [windowReads_ft hp hsel, windowEntry_absent ftView h]
    rfl
  · rw [windowReads_nodes hp hsel, windowEntry_absent nodeView (h.imp_right (nodeCount_le s).trans)]
    rfl
  · rw [windowReads_ct hp hsel, windowEntry_absent ctView h]
    rfl
  · obtain ⟨hi, -⟩ := List.getElem?_eq_some_iff.1 he
    rw [windowReads_ft hp hsel, hf, windowEntry_present ftView (ftCount_some hf ▸ hi) he]
    rfl

/-- The first bit of a string stands highest, and missing bits are 0. -/
theorem bitsWordFrom_getLsbD {n : Nat} (hn : n ≤ 32) (bs : Bits) (i : Nat) :
    (bitsWordFrom n bs).getLsbD i = (decide (i < n) && bs.getD (n - 1 - i) false) := by
  induction n generalizing bs with
  | zero => simp [bitsWordFrom]
  | succ n ih =>
    cases bs with
    | nil => simp [bitsWordFrom]
    | cons b bs =>
      rw [bitsWordFrom, BitVec.getLsbD_or, getLsbD_bit b n i hn, ih (by omega)]
      rcases Nat.lt_trichotomy i n with h | rfl | h
      · have hsub : n - i = n - 1 - i + 1 := by omega
        simp [h, h.ne, Nat.lt_succ_of_lt h, hsub]
      · simp
      · have hlt : ¬ i < n := by omega
        have hlt' : ¬ i < n + 1 := by omega
        simp [h.ne', hlt, hlt']

/-- Bit 31 - i of word k is code bit 32k + i. -/
theorem codeWord_getLsbD (code : Bits) (k : Nat) {i : Nat} (hi : i < 32) :
    (codeWord code k).getLsbD (31 - i) = code.getD (32 * k + i) false := by
  have hsub : 32 - 1 - (31 - i) = i := by omega
  have hlt : 31 - i < 32 := by omega
  rw [codeWord, bitsWordFrom_getLsbD le_rfl, hsub]
  simp [hlt]

/-- TBL_D2 to TBL_D4 of the CT view are the code words 0 to 2. -/
theorem ctView_toList_codeWord (e : CtEntry) {k : Nat} (hk : k < 3) :
    (ctView e).toList[2 + k]? = some (codeWord e.code k) := by
  interval_cases k <;> rfl

/-- Settles O15: code bit j is bit 31 - j mod 32 of code word j / 32. -/
theorem windowShowsCode : Obligations.WindowShowsCode := by
  unfold Obligations.WindowShowsCode
  intro s f cs e hp hsel hf hct hi he
  rw [windowReads_ct hp hsel, hct, windowEntry_present ctView (ftCount_some hf ▸ hi) he]
  refine ⟨rfl, rfl, fun j hj => ?_⟩
  rw [ctView_toList_codeWord e (by omega), Option.map_some, codeWord_getLsbD _ _ (by omega), Nat.div_add_mod]

end Sys2Proof.Machine
end

section
/-! PROOFS. The control commands NOP and CLEAR (41_control_commands.md R450, R451). -/

namespace Sys2Proof.Machine

theorem exec_nop (s : State) : exec .nop s = .next (complete 0 0 s) := rfl

theorem exec_clear (s : State) :
    exec .clear s = .next (complete 0 0 { s with ft := none, nodes := none, ct := none }) := rfl

/-- Settles O21: NOP is a bare completion, and `complete` sets just the results, PHASE and DONE. -/
theorem nopCompletes : Obligations.NopCompletes := by
  unfold Obligations.NopCompletes
  intro s
  rw [exec_nop, complete]

/-- Settles O22: CLEAR is the completion of the state whose three tables are released. -/
theorem clearReleasesTables : Obligations.ClearReleasesTables := by
  unfold Obligations.ClearReleasesTables
  intro s
  rw [exec_clear, complete]

end Sys2Proof.Machine
end

section
/-! PROOFS. The errors of counting a text, for COUNT and for ENCODE (42_frequency_counter.md R501, R502, R504). -/

namespace Sys2Proof.Machine

/-! ### The next symbol of a text (30_encoding.md R322) -/

section
variable {bs : List Byte} (hbs : bs ≠ [])
include hbs

theorem textSymbols_of_illFormed (o : Nat) (hat : utf8At bs = none) : textSymbols 0 o bs = [(o, none)] := by
  obtain ⟨b, bs, rfl⟩ := List.exists_cons_of_ne_nil hbs
  rw [textSymbols, hat]

theorem textSymbols_of_symbol (o : Nat) {v : Sym} {n : Nat} (hat : utf8At bs = some (v, n)) :
    ∃ rest, textSymbols 0 o bs = (o, some v) :: rest := by
  obtain ⟨b, bs, rfl⟩ := List.exists_cons_of_ne_nil hbs
  exact ⟨textSymbols (n - 1) (o + 1) bs, by rw [textSymbols, hat]⟩

end

/-- A text has no more symbols than bytes. -/
theorem length_textSymbols_le (skip o : Nat) (bs : List Byte) : (textSymbols skip o bs).length ≤ bs.length := by
  induction skip, o, bs using textSymbols.induct with
  | case1 => exact Nat.le_refl 0
  | case2 o skip b bs ih => exact ih.trans (Nat.le_succ _)
  | case3 o b bs v len hat ih =>
    rw [textSymbols, hat]
    exact Nat.succ_le_succ ih
  | case4 o b bs hat =>
    rw [textSymbols, hat]
    exact Nat.succ_le_succ (Nat.zero_le _)

/-- SRC_LEN has 32 bits. -/
theorem length_sourceBytes_le (s : State) : (sourceBytes s).length ≤ maxU32 := by
  rw [sourceBytes, memRead_length]
  exact Nat.le_of_lt_succ s.srcLen.isLt

/-! ### The symbols the counting loop stops at (42_frequency_counter.md R501) -/

section
variable {m : Nat} (o total : Nat) (rest : List (Nat × Option Sym))

theorem countLoop_illFormed (f : List FtEntry) :
    countLoop m ((o, none) :: rest) f total = .error (err .unsupportedSymbol 1 o) := rfl

theorem countLoop_null (f : List FtEntry) :
    countLoop m ((o, some 0) :: rest) f total = .error (err .unsupportedSymbol 2 o) := rfl

/-- A new symbol does not fit a full table. -/
theorem countLoop_full {f : List FtEntry} {syms : List Sym} {v : Sym} (hv : v ≠ 0) (hf : Tally f syms)
    (hnew : v ∉ syms) (hfull : f.length = m) :
    countLoop m ((o, some v) :: rest) f total = .error (err .capacityExceeded 0 o) := by
  have hlookup : ftLookup v f = none := by
    refine Option.eq_none_iff_forall_ne_some.2 fun c hc => hnew ?_
    exact ((hf.2 v c).1 (mem_of_ftLookup hc)).1
  rw [countLoop, if_neg hv, hlookup]
  exact if_pos hfull

end

/-! ### The first symbol that fails (42_frequency_counter.md R502) -/

/-- After supported symbols that fit, counting goes on from their tally at the offset where what follows begins. -/
theorem countText_textOf_append {m : Nat} {f : List FtEntry} {syms : List Sym} (rest : List Byte) (hf : Tally f syms)
    (hsyms : ∀ v ∈ syms, symOk v = true) (hlen : syms.length ≤ maxU32) (hm : f.length ≤ m) :
    countText m (textOf syms ++ rest) = countLoop m (textSymbols 0 (textOf syms).length rest) f syms.length := by
  have h := countLoop_textOf_append rest (o := 0) (total := 0) Tally.nil hf hsyms hlen hm
  rwa [Nat.zero_add, Nat.zero_add] at h

/-- COUNT and ENCODE complete with the error of count_text. -/
theorem exec_of_countText_error {i : Instr} {s : State} {e : Err} (hi : i = .count ∨ i = .encode)
    (hrange : RangeOk i s)
    (h : countText s.cfgMaxDistinct.toNat (sourceBytes s) = .error e) :
    exec i s = .next (raiseErr (targetsOf i) e s) := by
  rcases hi with rfl | rfl
  · have hcommand : countCommand s = .error e := by
      rw [countCommand, (checkSrc_ok s).2 hrange, h]
      rfl
    rw [exec, execCount, hcommand]
  · have hcommand : encodeCommand s = .error e := by
      rw [encodeCommand, (checkRegions_ok s).2 hrange, encodeText, h]
      rfl
    rw [exec, execEncode, hcommand]

/-- An error completion leaves the error's report. -/
theorem failed_raiseErr (x : Targets) (e : Err) (s : State) : Failed (raiseErr x e s) e.kind.code e.sub e.info :=
  ⟨rfl, rfl, rfl, rfl, rfl, rfl, rfl⟩

/-- Settles O30: the loop reaches the failing symbol with the tally of the symbols before it, and stops there. -/
theorem countTextErrors : Obligations.CountTextErrors := by
  unfold Obligations.CountTextErrors
  intro i s syms f rest hi hrange htext hsyms hf hm hrest
  have hlen : syms.length ≤ maxU32 := by
    have hbytes := length_sourceBytes_le s
    have hle := length_le_length_textOf syms
    rw [htext, List.length_append] at hbytes
    omega
  have hfails : ∀ e,
      countLoop s.cfgMaxDistinct.toNat (textSymbols 0 (textOf syms).length rest) f syms.length = .error e →
      ∃ t, exec i s = .next t ∧ Failed t e.kind.code e.sub e.info := by
    intro e hstop
    have hcount : countText s.cfgMaxDistinct.toNat (sourceBytes s) = .error e := by
      rw [htext, countText_textOf_append rest hf hsyms hlen hm, hstop]
    exact ⟨_, exec_of_countText_error hi hrange hcount, failed_raiseErr _ _ _⟩
  refine ⟨fun hat => ?_, fun n hat => ?_, fun v n hat hv hnew hfull => ?_⟩
  · rw [textSymbols_of_illFormed hrest _ hat] at hfails
    exact hfails _ (countLoop_illFormed _ _ _ _)
  · obtain ⟨later, hnext⟩ := textSymbols_of_symbol hrest (textOf syms).length hat
    rw [hnext] at hfails
    exact hfails _ (countLoop_null _ _ _ _)
  · obtain ⟨later, hnext⟩ := textSymbols_of_symbol hrest (textOf syms).length hat
    rw [hnext] at hfails
    exact hfails _ (countLoop_full _ _ _ hv hf hnew hfull)

/-! ### No count of a symbol overflows (42_frequency_counter.md R504) -/

/-- With fewer than 2^32 symbols in all, counted or to come, the loop stops for another reason than a count overflow: a
symbol's count is at most the number of symbols before it. -/
theorem countLoop_error_kind {m total : Nat} {g : List FtEntry} {pre : List Sym} {syms : List (Nat × Option Sym)}
    {e : Err}
    (hg : Tally g pre) (hlen : pre.length + syms.length ≤ maxU32) (h : countLoop m syms g total = .error e) :
    e.kind ≠ .countOverflow := by
  induction syms generalizing g pre total with
  | nil => exact nomatch h
  | cons x syms ih =>
    rw [List.length_cons] at hlen
    obtain ⟨o, _ | v⟩ := x
    · cases h
      exact nofun
    · by_cases hv : v = 0
      · subst hv
        cases h
        exact nofun
      · by_cases hroom : v ∉ pre → g.length ≠ m
        · obtain ⟨g', hg', hstep⟩ := countLoop_symbol (o := o) (total := total) hv hg (by omega) hroom syms
          refine ih hg' ?_ (hstep ▸ h)
          rw [List.length_append, List.length_singleton]
          omega
        · obtain ⟨hnew, hfull⟩ := Classical.not_imp.1 hroom
          rw [countLoop_full _ _ _ hv hg hnew (not_not.1 hfull)] at h
          cases h
          exact nofun

theorem countText_error_kind {m : Nat} {text : List Byte} {e : Err} (hlen : text.length ≤ maxU32)
    (h : countText m text = .error e) : e.kind ≠ .countOverflow := by
  refine countLoop_error_kind Tally.nil ?_ h
  have hle := length_textSymbols_le 0 0 text
  rw [List.length_nil]
  omega

/-! ### What COUNT and ENCODE can raise -/

/-- A sequence of two parts that fails: one of the parts does. -/
theorem bind_error {ε α β : Type} {x : Except ε α} {g : α → Except ε β} {e : ε} (h : x >>= g = .error e) :
    x = .error e ∨ ∃ a, x = .ok a ∧ g a = .error e := by
  cases x with
  | error e' => exact .inl (congrArg Except.error (Except.error.inj h))
  | ok a => exact .inr ⟨a, rfl, h⟩

theorem checkSrc_error {s : State} {e : Err} (h : checkSrc s = .error e) : e = err .bufferRange 1 0 := by
  unfold checkSrc at h
  split at h
  · exact (Except.error.inj h).symm
  · exact nomatch h

theorem checkRegions_error_kind {s : State} {e : Err} (h : checkRegions s = .error e) : e.kind = .bufferRange := by
  obtain h' | ⟨h', -⟩ | ⟨h', -⟩ | ⟨h', -⟩ := checkRegions_cases s <;> cases h'.symm.trans h <;> rfl

theorem buildTree_error {f : List FtEntry} {e : Err} (h : buildTree f = .error e) : e = err .emptyInput 0 0 := by
  unfold buildTree at h
  split at h
  · exact (Except.error.inj h).symm
  · exact nomatch h

/-- An encode that fails, check by check (45_encoder.md R650). -/
theorem encodeText_error {m cap : Nat} {text : List Byte} {e : Err} (h : encodeText m cap text = .error e) :
    countText m text = .error e ∨ e = err .emptyInput 0 0 ∨ e = err .countOverflow 3 0
      ∨ ∃ size, e = err .outputOverflow 0 size := by
  obtain hcount | ⟨r, -, h⟩ := bind_error h
  · exact .inl hcount
  · obtain htree | ⟨nodes, -, h⟩ := bind_error h
    · exact .inr (.inl (buildTree_error htree))
    · simp only at h
      split at h
      · exact .inr (.inr (.inl (Except.error.inj h).symm))
      · split at h
        · exact .inr (.inr (.inr ⟨_, (Except.error.inj h).symm⟩))
        · exact nomatch h

theorem countCommand_error_kind {s : State} {e : Err} (h : countCommand s = .error e) : e.kind ≠ .countOverflow := by
  obtain hsrc | ⟨-, -, hcount⟩ := bind_error h
  · rw [checkSrc_error hsrc]
    exact nofun
  · exact countText_error_kind (length_sourceBytes_le s) hcount

/-- The count that overflows in an ENCODE is the number of code bits, sub-cause 3. -/
theorem encodeCommand_countOverflow {s : State} {e : Err} (h : encodeCommand s = .error e)
    (hkind : e.kind = .countOverflow) : e.sub = 3 := by
  obtain hregions | ⟨-, -, htext⟩ := bind_error h
  · exact nomatch (checkRegions_error_kind hregions).symm.trans hkind
  · obtain hcount | rfl | rfl | ⟨size, rfl⟩ := encodeText_error htext
    · exact absurd hkind (countText_error_kind (length_sourceBytes_le s) hcount)
    · exact nomatch hkind
    · rfl
    · exact nomatch hkind

theorem ErrKind.eq_countOverflow_of_code {k : ErrKind} (h : k.code = 3) : k = .countOverflow := by
  revert h
  cases k <;> decide

/-- Settles O31: the source region has fewer than 2^32 symbols, so no symbol's count overflows, and a success leaves the
clear report. -/
theorem countOverflowUnreachable : Obligations.CountOverflowUnreachable := by
  unfold Obligations.CountOverflowUnreachable
  rintro i s t (rfl | rfl) h0 h ⟨hcode, hsub⟩
  · obtain ⟨e, he, rfl⟩ | ⟨f, total, -, rfl⟩ := execCount_cases h
    · exact countCommand_error_kind he (ErrKind.eq_countOverflow_of_code hcode)
    · exact absurd (h0.symm.trans hcode) (by decide)
  · obtain ⟨e, he, rfl⟩ | ⟨r, -, rfl⟩ := execEncode_cases h
    · have hthree := encodeCommand_countOverflow he (ErrKind.eq_countOverflow_of_code hcode)
      exact absurd (hthree.symm.trans hsub) (by decide)
    · exact absurd (h0.symm.trans hcode) (by decide)

end Sys2Proof.Machine
end

section
/-! PROOFS. BUILD, and what holds of the tree of build_tree. -/

namespace Sys2Proof.Machine

/-! ### The order of keys (43_tree_builder.md R560) -/

theorem keyLt_iff (a b : Nat × Nat × Nat) :
    keyLt a b = true ↔ a.1 < b.1 ∨ a.1 = b.1 ∧ (a.2.1 < b.2.1 ∨ a.2.1 = b.2.1 ∧ a.2.2 < b.2.2) := by
  simp [keyLt]

theorem keyLt_trans {a b c : Nat × Nat × Nat} (hab : keyLt a b = true) (hbc : keyLt b c = true) :
    keyLt a c = true := by
  rw [keyLt_iff] at *
  omega

theorem keyLt_asymm {a b : Nat × Nat × Nat} (h : keyLt a b = true) : ¬ keyLt b a = true := by
  rw [keyLt_iff] at *
  omega

/-- Keys that differ behind their weights are told apart, whatever the weights. -/
theorem keyLt_of_not_keyLt {a b : Nat × Nat × Nat} (hne : a.2 ≠ b.2) (h : ¬ keyLt b a = true) : keyLt a b = true := by
  have hsplit : a.2.1 ≠ b.2.1 ∨ a.2.2 ≠ b.2.2 := by
    rw [Ne, Prod.ext_iff] at hne
    omega
  rw [keyLt_iff] at *
  omega

@[simp] theorem Node.key_fst (x : Node) : x.key.1 = x.weight.toNat := by cases x <;> rfl

theorem weight_le_of_keyLt {x y : Node} (h : keyLt x.key y.key = true) : x.weight.toNat ≤ y.weight.toNat := by
  rw [keyLt_iff, Node.key_fst, Node.key_fst] at h
  omega

@[simp] theorem key_mergeNode_snd (a b : Node × Nat) (k : Nat) : (mergeNode a b k).key.2 = (1, k) := rfl

/-! ### What a merge extracts (43_tree_builder.md R561) -/

/-- Nothing left in the pool has a lesser key than the member extracted. -/
theorem takeLeast_least {pool rest : List (Node × Nat)} {x : Node × Nat} (h : takeLeast pool = some (x, rest)) :
    ∀ y ∈ rest, ¬ keyLt y.1.key x.1.key = true := by
  induction pool generalizing x rest with
  | nil => exact nomatch h
  | cons z pool ih =>
    unfold takeLeast at h
    split at h
    · cases h
      exact fun _ hy => absurd hy List.not_mem_nil
    · rename_i htake
      split at h <;> rename_i hlt <;> cases h
      · intro y hy hyx
        rcases List.mem_cons.1 ((takeLeast_perm htake).mem_iff.1 hy) with rfl | hy
        · exact keyLt_asymm hlt hyx
        · exact ih htake y hy (keyLt_trans hyx hlt)
      · exact List.forall_mem_cons.2 ⟨hlt, ih htake⟩

/-- Extraction does not depend on the order of the pool: a member whose key is less than all others is the one. -/
theorem takeLeast_of_perm {pool others : List (Node × Nat)} {x : Node × Nat} (hperm : pool.Perm (x :: others))
    (hleast : ∀ y ∈ others, keyLt x.1.key y.1.key = true) :
    ∃ rest, takeLeast pool = some (x, rest) ∧ rest.Perm others := by
  obtain ⟨z, rest, htake⟩ := takeLeast_of_ne_nil (pool := pool) (by rintro rfl; exact nomatch hperm.length_eq)
  have hsame : (z :: rest).Perm (x :: others) := (takeLeast_perm htake).symm.trans hperm
  have hz : z = x := by
    rcases List.mem_cons.1 (hsame.mem_iff.1 List.mem_cons_self) with hz | hz
    · exact hz
    · rcases List.mem_cons.1 (hsame.mem_iff.2 List.mem_cons_self) with hx | hx
      · exact hx.symm
      · exact absurd (hleast z hz) (takeLeast_least htake x hx)
  subst hz
  exact ⟨rest, htake, hsame.cons_inv⟩

/-- The two members a merge extracts come in the order of their keys. -/
theorem takeLeast_twice_order {pool pool1 rest : List (Node × Nat)} {a b : Node × Nat}
    (ha : takeLeast pool = some (a, pool1)) (hb : takeLeast pool1 = some (b, rest)) :
    ¬ keyLt b.1.key a.1.key = true :=
  takeLeast_least ha b ((takeLeast_perm hb).mem_iff.2 List.mem_cons_self)

/-! ### Induction over the merges of build_tree -/

/-- `P` is kept by every merge: merge number `k` takes two members out of the pool, the first with no greater key, and
appends their parent to the arena and to the pool. -/
def KeptByMerges (P : Nat → List Node → List (Node × Nat) → Prop) : Prop :=
  ∀ (k : Nat) (nodes : List Node) (pool rest : List (Node × Nat)) (a b : Node × Nat), P k nodes pool →
    pool.Perm (a :: b :: rest) → ¬ keyLt b.1.key a.1.key = true →
    P (k + 1) (nodes ++ [mergeNode a b k]) (rest ++ [(mergeNode a b k, nodes.length)])

theorem mergeLoop_induction {P : Nat → List Node → List (Node × Nat) → Prop} (hkept : KeptByMerges P) {m k : Nat}
    {nodes : List Node} {pool : List (Node × Nat)} (h : P k nodes pool) (hlen : pool.length = m + 1) :
    ∃ root, P (k + m) (mergeLoop m k nodes pool) [root] := by
  induction m generalizing k nodes pool with
  | zero =>
    obtain ⟨root, rfl⟩ := List.length_eq_one_iff.1 hlen
    exact ⟨root, h⟩
  | succ m ih =>
    obtain ⟨a, pool1, b, rest, ha, hb, hperm⟩ := takeLeast_twice (pool := pool) (by omega)
    have hrest := hperm.length_eq
    simp only [List.length_cons] at hrest
    simp only [mergeLoop, ha, hb]
    rw [Nat.add_comm m, ← Nat.add_assoc]
    refine ih (hkept _ _ _ _ _ _ h hperm (takeLeast_twice_order ha hb)) ?_
    rw [List.length_append, List.length_singleton]
    omega

@[simp] theorem length_leavesOf (f : List FtEntry) : (leavesOf f).length = f.length := by simp [leavesOf]

/-- What holds of the leaves and is kept by every merge holds of the built tree, whose pool is the root alone. -/
theorem buildTree_induction {P : Nat → List Node → List (Node × Nat) → Prop} (hkept : KeptByMerges P)
    {f : List FtEntry} {ns : List Node} (h : buildTree f = .ok ns) (hleaves : P 0 (leavesOf f) (leavesOf f).zipIdx) :
    ∃ root, P (f.length - 1) ns [root] := by
  obtain ⟨hf, rfl⟩ := buildTree_ok h
  have hpos := List.length_pos_iff.2 hf
  simpa using mergeLoop_induction hkept hleaves (m := f.length - 1) (by simp; omega)

/-! ### The layout of the arena (10_state.md R133) -/

/-- The arena after `k` merges: the leaves in FT order, then a node per merge with its children before it; a pool member
stands at its index. -/
structure Arena (f : List FtEntry) (k : Nat) (nodes : List Node) (pool : List (Node × Nat)) : Prop
    extends Forest nodes pool where
  length : nodes.length = f.length + k
  leaves : leavesOf f <+: nodes
  pooled : ∀ x ∈ pool, nodes[x.2]? = some x.1
  merges : ∀ j < k, ∃ w l r, nodes[f.length + j]? = some (.internal w l r j) ∧ l < f.length + j ∧ r < f.length + j

/-- A node of the arena stays where it is. -/
theorem getElem?_of_prefix {nodes more : List Node} {i : Nat} {x : Node} (hprefix : nodes <+: more)
    (h : nodes[i]? = some x) : more[i]? = some x := by
  obtain ⟨hi, rfl⟩ := List.getElem?_eq_some_iff.1 h
  exact List.prefix_iff_getElem?.1 hprefix i hi

theorem getElem?_append_of_eq_some {nodes more : List Node} {i : Nat} {x : Node} (h : nodes[i]? = some x) :
    (nodes ++ more)[i]? = some x :=
  getElem?_of_prefix (List.prefix_append nodes more) h

theorem Arena.start {f : List FtEntry} (hf : f ≠ []) : Arena f 0 (leavesOf f) (leavesOf f).zipIdx where
  toForest := .leaves hf
  length := by simp
  leaves := List.prefix_refl _
  pooled x hx := List.mem_zipIdx_iff_getElem?.1 hx
  merges j hj := absurd hj (Nat.not_lt_zero j)

theorem Arena.merge {f : List FtEntry} : KeptByMerges (Arena f) := by
  intro k nodes pool rest a b harena hperm _
  have hold := harena.pooled
  have hlt : ∀ x ∈ pool, x.2 < f.length + k := fun x hx =>
    harena.length ▸ (List.getElem?_eq_some_iff.1 (hold x hx)).1
  refine { toForest := harena.toForest.merge k hperm, length := ?_, leaves := ?_, pooled := ?_, merges := ?_ }
  · rw [List.length_append, harena.length, List.length_singleton, Nat.add_assoc]
  · exact harena.leaves.trans (List.prefix_append _ _)
  · intro x hx
    rcases List.mem_append.1 hx with hx | hx
    · exact getElem?_append_of_eq_some (hold x (hperm.mem_iff.2 (by simp [hx])))
    · rw [List.mem_singleton.1 hx, List.getElem?_concat_length]
  · intro j hj
    rcases Nat.lt_succ_iff_lt_or_eq.1 hj with hj | rfl
    · obtain ⟨w, l, r, hnode, hchildren⟩ := harena.merges j hj
      exact ⟨w, l, r, getElem?_append_of_eq_some hnode, hchildren⟩
    · refine ⟨a.1.weight + b.1.weight, a.2, b.2, ?_, hlt a (hperm.mem_iff.2 (by simp)),
        hlt b (hperm.mem_iff.2 (by simp))⟩
      rw [← harena.length, List.getElem?_concat_length]
      rfl

theorem Arena.getElem?_leaf {f : List FtEntry} {k i : Nat} {nodes : List Node} {pool : List (Node × Nat)} {e : FtEntry}
    (h : Arena f k nodes pool) (he : f[i]? = some e) : nodes[i]? = some (.leaf (e.count.setWidth 64) e.sym) :=
  getElem?_of_prefix h.leaves (by simp [leavesOf, he])

/-- The last pool member is the root. -/
theorem Arena.getElem?_root {f : List FtEntry} {k : Nat} {nodes : List Node} {root : Node × Nat}
    (h : Arena f k nodes [root]) : nodes[rootOf nodes]? = some root.1 := by
  have hroot : rootOf nodes = root.2 := by simpa [rootOf] using h.newest
  rw [hroot]
  exact h.pooled root List.mem_cons_self

theorem buildTree_of_ne_nil {f : List FtEntry} (hf : f ≠ []) : ∃ ns, buildTree f = .ok ns :=
  ⟨_, if_neg (by simpa using hf)⟩

theorem execBuild_of_buildTree {s : State} {f : List FtEntry} {ns : List Node} (hs : s.ft = some f)
    (h : buildTree f = .ok ns) :
    exec .build s = .next (complete 0 (resultWord (2 * f.length - 1)) { s with nodes := some ns, ct := none }) := by
  simp [exec, execBuild, buildCommand, hs, h]

/-- Settles O40: the layout of the arena holds of the leaves and every merge keeps it. -/
theorem buildMakesTree : Obligations.BuildMakesTree := by
  unfold Obligations.BuildMakesTree
  intro s f hs hf
  obtain ⟨ns, h⟩ := buildTree_of_ne_nil hf
  obtain ⟨root, harena⟩ := buildTree_induction Arena.merge h (.start hf)
  have hpos := List.length_pos_iff.2 hf
  exact ⟨ns, execBuild_of_buildTree hs h, by rw [harena.length]; omega, fun _ _ => harena.getElem?_leaf, harena.merges⟩

/-! ### A relation of every parent to its children -/

/-- Every internal node of the arena has its two children in it, and its weight and the children are related by `R`. -/
def ChildrenMeet (R : Weight → Node → Node → Prop) (nodes : List Node) : Prop :=
  ∀ w l r q, Node.internal w l r q ∈ nodes → ∃ a b, nodes[l]? = some a ∧ nodes[r]? = some b ∧ R w a b

theorem ChildrenMeet.leaves (R : Weight → Node → Node → Prop) (f : List FtEntry) : ChildrenMeet R (leavesOf f) := by
  intro w l r q h
  simp [leavesOf] at h

theorem ChildrenMeet.merge {R : Weight → Node → Node → Prop} {nodes : List Node} {a b : Node × Nat} (k : Nat)
    (h : ChildrenMeet R nodes) (ha : nodes[a.2]? = some a.1) (hb : nodes[b.2]? = some b.1)
    (hR : R (a.1.weight + b.1.weight) a.1 b.1) : ChildrenMeet R (nodes ++ [mergeNode a b k]) := by
  intro w l r q hmem
  rcases List.mem_append.1 hmem with hmem | hmem
  · obtain ⟨x, y, hx, hy, hxy⟩ := h w l r q hmem
    exact ⟨x, y, getElem?_append_of_eq_some hx, getElem?_append_of_eq_some hy, hxy⟩
  · cases List.mem_singleton.1 hmem
    exact ⟨a.1, b.1, getElem?_append_of_eq_some ha, getElem?_append_of_eq_some hb, hR⟩

/-! ### The weight invariant (43_tree_builder.md R572, R573) -/

/-- The sum of the weights in the pool. -/
def poolWeight (pool : List (Node × Nat)) : Nat := (pool.map (fun x => x.1.weight.toNat)).sum

theorem poolWeight_perm {p q : List (Node × Nat)} (h : p.Perm q) : poolWeight p = poolWeight q :=
  (h.map _).sum_eq

/-- The weight of a leaf is its count. -/
theorem weight_leaf (e : FtEntry) : (Node.leaf (e.count.setWidth 64) e.sym).weight.toNat = e.count.toNat :=
  BitVec.toNat_setWidth_of_le (by decide)

theorem poolWeight_leaves (f : List FtEntry) :
    poolWeight (leavesOf f).zipIdx = (f.map (fun e => e.count.toNat)).sum := by
  have hmap : (leavesOf f).zipIdx.map (fun x => x.1.weight.toNat)
      = ((leavesOf f).zipIdx.map Prod.fst).map (·.weight.toNat) := by rw [List.map_map]; rfl
  rw [poolWeight, hmap, List.zipIdx_map_fst, leavesOf, List.map_map]
  exact congrArg List.sum (List.map_congr_left fun e _ => weight_leaf e)

/-- The counts of a table a block can hold sum to less than 2^64 (43_tree_builder.md R573). -/
theorem poolWeight_leaves_lt {f : List FtEntry} (h : f.length ≤ 1112063) :
    poolWeight (leavesOf f).zipIdx < 2 ^ 64 := by
  have hsum := List.sum_le_card_nsmul (f.map (fun e => e.count.toNat)) (2 ^ 32) (by
    intro c hc
    obtain ⟨e, -, rfl⟩ := List.mem_map.1 hc
    exact e.count.isLt.le)
  rw [List.length_map, smul_eq_mul] at hsum
  rw [poolWeight_leaves]
  omega

/-- No sum of two weights wraps while the pool's does not. -/
theorem weight_mergeNode {pool rest : List (Node × Nat)} {a b : Node × Nat} (k : Nat)
    (hperm : pool.Perm (a :: b :: rest)) (hlt : poolWeight pool < 2 ^ 64) :
    (mergeNode a b k).weight.toNat = a.1.weight.toNat + b.1.weight.toNat := by
  have hsum := poolWeight_perm hperm
  simp only [poolWeight, List.map_cons, List.sum_cons] at hsum hlt
  exact BitVec.toNat_add_of_lt (by omega)

/-- A merge keeps the weight of the pool. -/
theorem poolWeight_merge {pool rest : List (Node × Nat)} {a b : Node × Nat} {k i : Nat}
    (hperm : pool.Perm (a :: b :: rest)) (hlt : poolWeight pool < 2 ^ 64) :
    poolWeight (rest ++ [(mergeNode a b k, i)]) = poolWeight pool := by
  rw [poolWeight_perm hperm]
  simp [poolWeight, weight_mergeNode k hperm hlt, Nat.add_comm, Nat.add_assoc]

/-- The weight of a parent is the exact sum of its children's. -/
def SumOfChildren (w : Weight) (a b : Node) : Prop := w.toNat = a.weight.toNat + b.weight.toNat

/-- The arena during the merges, with exact sums, its pool weighing `total`. -/
structure Weighed (f : List FtEntry) (total k : Nat) (nodes : List Node) (pool : List (Node × Nat)) : Prop
    extends Arena f k nodes pool where
  sums : ChildrenMeet SumOfChildren nodes
  total : poolWeight pool = total

theorem Weighed.merge {f : List FtEntry} {total : Nat} (hlt : total < 2 ^ 64) : KeptByMerges (Weighed f total) := by
  intro k nodes pool rest a b h hperm horder
  have hpool : poolWeight pool < 2 ^ 64 := h.total ▸ hlt
  exact {
    toArena := Arena.merge k nodes pool rest a b h.toArena hperm horder
    sums := h.sums.merge k (h.pooled a (hperm.mem_iff.2 (by simp))) (h.pooled b (hperm.mem_iff.2 (by simp)))
      (weight_mergeNode k hperm hpool)
    total := (poolWeight_merge hperm hpool).trans h.total }

/-- Settles O41: every merge sums exactly and keeps the weight of the pool, which ends as the root's. -/
theorem treeWeights : Obligations.TreeWeights := by
  unfold Obligations.TreeWeights
  intro f ns h hlen
  obtain ⟨hf, -⟩ := buildTree_ok h
  obtain ⟨root, hw⟩ := buildTree_induction (Weighed.merge (poolWeight_leaves_lt hlen)) h
    { toArena := .start hf, sums := .leaves _ f, total := rfl }
  refine ⟨fun i w l r q hi => hw.sums w l r q (List.mem_of_getElem? hi),
    fun i e he => ⟨_, hw.getElem?_leaf he, weight_leaf e⟩, root.1, hw.getElem?_root, ?_⟩
  calc root.1.weight.toNat
    _ = poolWeight [root] := by simp [poolWeight]
    _ = (f.map (fun e => e.count.toNat)).sum := hw.total.trans (poolWeight_leaves f)

/-! ### The order of the children (43_tree_builder.md R562) -/

/-- The pool before merge `k`: its members' keys differ behind their weights, and none has the seq of a merge to come. -/
structure Tagged (k : Nat) (pool : List (Node × Nat)) : Prop where
  distinct : pool.Pairwise (fun x y => x.1.key.2 ≠ y.1.key.2)
  fresh : ∀ x ∈ pool, ∀ j, k ≤ j → x.1.key.2 ≠ (1, j)

theorem Tagged.merge {k i : Nat} {pool rest : List (Node × Nat)} {a b : Node × Nat} (h : Tagged k pool)
    (hperm : pool.Perm (a :: b :: rest)) : Tagged (k + 1) (rest ++ [(mergeNode a b k, i)]) := by
  have hrest : ∀ x ∈ rest, x ∈ pool := fun x hx => hperm.mem_iff.2 (by simp [hx])
  have hdistinct := (hperm.pairwise_iff fun hxy => Ne.symm hxy).1 h.distinct
  constructor
  · rw [List.pairwise_append]
    refine ⟨hdistinct.of_cons.of_cons, List.pairwise_singleton _ _, fun x hx y hy => ?_⟩
    rw [List.mem_singleton.1 hy]
    exact h.fresh x (hrest x hx) k le_rfl
  · intro x hx j hj
    rcases List.mem_append.1 hx with hx | hx
    · exact h.fresh x (hrest x hx) j (by omega)
    · rw [List.mem_singleton.1 hx, key_mergeNode_snd, Ne, Prod.mk.injEq]
      omega

theorem Tagged.leaves {f : List FtEntry} (h : ftRises f = true) : Tagged 0 (leavesOf f).zipIdx := by
  constructor
  · rw [← List.pairwise_map (f := fun x : Node × Nat => x.1) (R := fun x y : Node => x.key.2 ≠ y.key.2),
      List.zipIdx_map_fst, leavesOf, List.pairwise_map]
    exact ((ftRises_iff f).1 h).imp fun hlt heq => hlt.ne (congrArg Prod.snd heq)
  · intro x hx j _
    obtain ⟨e, -, he⟩ := List.mem_map.1 (List.fst_mem_of_mem_zipIdx hx)
    rw [← he]
    exact fun heq => nomatch congrArg Prod.fst heq

/-- The left child's key is the lesser. -/
def KeyOrder (_ : Weight) (a b : Node) : Prop := keyLt a.key b.key = true

/-- The arena during the merges, its keys distinct and the children of every node in the order of their keys. -/
structure Ordered (f : List FtEntry) (k : Nat) (nodes : List Node) (pool : List (Node × Nat)) : Prop
    extends Arena f k nodes pool, Tagged k pool where
  order : ChildrenMeet KeyOrder nodes

theorem Ordered.merge {f : List FtEntry} : KeptByMerges (Ordered f) := by
  intro k nodes pool rest a b h hperm horder
  have hne : a.1.key.2 ≠ b.1.key.2 :=
    List.rel_of_pairwise_cons ((hperm.pairwise_iff fun hxy => Ne.symm hxy).1 h.distinct) List.mem_cons_self
  exact {
    toArena := Arena.merge k nodes pool rest a b h.toArena hperm horder
    toTagged := h.toTagged.merge hperm
    order := h.order.merge k (h.pooled a (hperm.mem_iff.2 (by simp))) (h.pooled b (hperm.mem_iff.2 (by simp)))
      (keyLt_of_not_keyLt hne horder) }

/-- Settles O43: no two members of a pool share a key, so the first extracted has the lesser one. -/
theorem firstExtractedIsLeft : Obligations.FirstExtractedIsLeft := by
  unfold Obligations.FirstExtractedIsLeft
  intro m f ns hf h i w l r q hi
  obtain ⟨hne, -⟩ := buildTree_ok h
  obtain ⟨hrises, -, -⟩ := (ftWf_iff m f).1 hf
  obtain ⟨root, hordered⟩ := buildTree_induction Ordered.merge h
    { toArena := .start hne, toTagged := .leaves hrises, order := .leaves _ f }
  exact hordered.order w l r q (List.mem_of_getElem? hi)

end Sys2Proof.Machine
end

section
/-! PROOFS. The two-queue builder. -/

namespace Sys2Proof.Machine

/-- The key of `x` is less than that of `y`. -/
def Precedes (x y : Node × Nat) : Prop := keyLt x.1.key y.1.key = true

theorem Precedes.trans {x y z : Node × Nat} (hxy : Precedes x y) (hyz : Precedes y z) : Precedes x z :=
  keyLt_trans hxy hyz

/-! ### The sorter -/

theorem insertByKey_perm (x : Node × Nat) (l : List (Node × Nat)) : (insertByKey x l).Perm (x :: l) := by
  induction l with
  | nil => rfl
  | cons y l ih =>
    unfold insertByKey
    split
    · rfl
    · exact (ih.cons y).trans (.swap x y l)

theorem sortByKey_perm (l : List (Node × Nat)) : (sortByKey l).Perm l := by
  induction l with
  | nil => rfl
  | cons x l ih => exact (insertByKey_perm x (sortByKey l)).trans (ih.cons x)

theorem pairwise_insertByKey {x : Node × Nat} {l : List (Node × Nat)} (hl : l.Pairwise Precedes)
    (hne : ∀ y ∈ l, x.1.key.2 ≠ y.1.key.2) : (insertByKey x l).Pairwise Precedes := by
  induction l with
  | nil => exact List.pairwise_singleton _ x
  | cons y l ih =>
    obtain ⟨hy, htail⟩ := List.pairwise_cons.1 hl
    obtain ⟨hxy, hne⟩ := List.forall_mem_cons.1 hne
    unfold insertByKey
    split <;> rename_i hlt
    · exact .cons (List.forall_mem_cons.2 ⟨hlt, fun z hz => Precedes.trans hlt (hy z hz)⟩) hl
    · refine .cons (fun z hz => ?_) (ih htail hne)
      rcases List.mem_cons.1 ((insertByKey_perm x l).mem_iff.1 hz) with rfl | hz
      · exact keyLt_of_not_keyLt hxy.symm hlt
      · exact hy z hz

theorem pairwise_sortByKey {l : List (Node × Nat)} (h : l.Pairwise (fun x y => x.1.key.2 ≠ y.1.key.2)) :
    (sortByKey l).Pairwise Precedes := by
  induction l with
  | nil => exact .nil
  | cons x l ih =>
    obtain ⟨hx, hl⟩ := List.pairwise_cons.1 h
    exact pairwise_insertByKey (ih hl) fun y hy => hx y ((sortByKey_perm l).mem_iff.1 hy)

/-! ### The head of the two queues (43_tree_builder.md R570) -/

/-- Two queues in the order of their keys, leaves in the one and internal nodes in the other. -/
structure Sorted (ls is : List (Node × Nat)) : Prop where
  leaves : ls.Pairwise Precedes
  fifo : is.Pairwise Precedes
  leafKind : ∀ x ∈ ls, x.1.key.2.1 = 0
  nodeKind : ∀ x ∈ is, x.1.key.2.1 = 1

theorem Sorted.sublist {ls is ls' is' : List (Node × Nat)} (h : Sorted ls is) (hl : ls'.Sublist ls)
    (hi : is'.Sublist is) : Sorted ls' is' where
  leaves := h.leaves.sublist hl
  fifo := h.fifo.sublist hi
  leafKind x hx := h.leafKind x (hl.subset hx)
  nodeKind x hx := h.nodeKind x (hi.subset hx)

/-- `x` heads one of the two queues, its key is less than all others, and `ls'` and `is'` are the queues without it. -/
structure Takes (ls is : List (Node × Nat)) (x : Node × Nat) (ls' is' : List (Node × Nat)) : Prop where
  eq : takeHead ls is = some (x, ls', is')
  perm : (ls ++ is).Perm (x :: (ls' ++ is'))
  least : ∀ y ∈ ls' ++ is', Precedes x y
  leaves : ls'.Sublist ls
  fifo : is'.Sublist is

/-- A leaf goes before an internal node of the same weight. -/
theorem precedes_of_leaf_of_weight_le {x y : Node × Nat} (hx : x.1.key.2.1 = 0) (hy : y.1.key.2.1 = 1)
    (h : x.1.weight.toNat ≤ y.1.weight.toNat) : Precedes x y := by
  rw [Precedes, keyLt_iff, Node.key_fst, Node.key_fst]
  omega

theorem precedes_of_weight_lt {x y : Node × Nat} (h : x.1.weight.toNat < y.1.weight.toNat) : Precedes x y := by
  rw [Precedes, keyLt_iff, Node.key_fst, Node.key_fst]
  exact .inl h

/-- A head that precedes the head of the other queue precedes all the rest. -/
theorem Precedes.rest {x y : Node × Nat} {xs ys : List (Node × Nat)} (h : Precedes x y)
    (hx : (x :: xs).Pairwise Precedes) (hy : (y :: ys).Pairwise Precedes) :
    (∀ z ∈ xs, Precedes x z) ∧ ∀ z ∈ y :: ys, Precedes x z :=
  ⟨fun _ => List.rel_of_pairwise_cons hx,
    List.forall_mem_cons.2 ⟨h, fun _ hz => h.trans (List.rel_of_pairwise_cons hy hz)⟩⟩

/-- Comparing the weights of the two heads alone finds the least key. -/
theorem Sorted.takes {ls is : List (Node × Nat)} (h : Sorted ls is) (hpos : 0 < (ls ++ is).length) :
    ∃ x ls' is', Takes ls is x ls' is' := by
  match ls, is with
  | [], [] => exact absurd hpos (Nat.lt_irrefl 0)
  | l :: ls, [] =>
    exact ⟨l, ls, [], rfl, .refl _, by simpa using (List.pairwise_cons.1 h.leaves).1, List.sublist_cons_self l ls,
      .refl _⟩
  | [], i :: is =>
    exact ⟨i, [], is, rfl, .refl _, (List.pairwise_cons.1 h.fifo).1, .refl _, List.sublist_cons_self i is⟩
  | l :: ls, i :: is =>
    by_cases hle : l.1.weight.toNat ≤ i.1.weight.toNat
    · have hli := precedes_of_leaf_of_weight_le (h.leafKind l List.mem_cons_self) (h.nodeKind i List.mem_cons_self) hle
      obtain ⟨hleaves, hfifo⟩ := hli.rest h.leaves h.fifo
      exact ⟨l, ls, i :: is, if_pos hle, .refl _, List.forall_mem_append.2 ⟨hleaves, hfifo⟩,
        List.sublist_cons_self l ls, .refl _⟩
    · have hil := precedes_of_weight_lt (not_le.1 hle)
      obtain ⟨hfifo, hleaves⟩ := hil.rest h.fifo h.leaves
      exact ⟨i, l :: ls, is, if_neg hle, List.perm_middle, List.forall_mem_append.2 ⟨hleaves, hfifo⟩,
        .refl _, List.sublist_cons_self i is⟩

/-! ### The two builders merge the same nodes -/

/-- The two queues before merge `k`. No weight is below `w`, the greater one of the last merge, and no internal node
weighs more than `2 * w`, so none outweighs a node still to come. -/
structure Queues (k w : Nat) (ls is : List (Node × Nat)) : Prop extends Sorted ls is where
  seq : ∀ x ∈ is, x.1.key.2.2 < k
  least : ∀ x ∈ ls ++ is, w ≤ x.1.weight.toNat
  most : ∀ x ∈ is, x.1.weight.toNat ≤ 2 * w

/-- Two members taken and their parent appended to the FIFO, which stays in the order of its keys. -/
theorem Queues.merge {k w : Nat} {ls is ls1 is1 ls2 is2 : List (Node × Nat)} {a b parent : Node × Nat}
    (h : Queues k w ls is) (ha : Takes ls is a ls1 is1) (hb : Takes ls1 is1 b ls2 is2)
    (hkey : parent.1.key.2 = (1, k)) (hsum : parent.1.weight.toNat = a.1.weight.toNat + b.1.weight.toNat) :
    Queues (k + 1) b.1.weight.toNat ls2 (is2 ++ [parent]) := by
  have hsorted := h.toSorted.sublist (hb.leaves.trans ha.leaves) (hb.fifo.trans ha.fifo)
  have hfifo : ∀ x ∈ is2, x ∈ is := fun _ hx => ha.fifo.subset (hb.fifo.subset hx)
  have hwa : w ≤ a.1.weight.toNat := h.least a (ha.perm.mem_iff.2 List.mem_cons_self)
  have hab : a.1.weight.toNat ≤ b.1.weight.toNat :=
    weight_le_of_keyLt (ha.least b (hb.perm.mem_iff.2 List.mem_cons_self))
  have hparent : ∀ x ∈ is2, Precedes x parent := by
    intro x hx
    have hkind := hsorted.nodeKind x hx
    have hmost := h.most x (hfifo x hx)
    have hseq := h.seq x (hfifo x hx)
    rw [Precedes, keyLt_iff, Node.key_fst, Node.key_fst, hkey]
    omega
  refine { leaves := hsorted.leaves, fifo := ?_, leafKind := hsorted.leafKind, nodeKind := ?_, seq := ?_, least := ?_,
           most := ?_ }
  · exact List.pairwise_append.2 ⟨hsorted.fifo, List.pairwise_singleton _ _, by simpa using hparent⟩
  · exact List.forall_mem_append.2 ⟨hsorted.nodeKind, by simp [hkey]⟩
  · exact List.forall_mem_append.2 ⟨fun x hx => Nat.lt_succ_of_lt (h.seq x (hfifo x hx)), by simp [hkey]⟩
  · rw [← List.append_assoc]
    exact List.forall_mem_append.2 ⟨fun x hx => weight_le_of_keyLt (hb.least x hx), by simp [hsum]⟩
  · refine List.forall_mem_append.2 ⟨fun x hx => (h.most x (hfifo x hx)).trans (by omega), ?_⟩
    rw [List.forall_mem_singleton, hsum]
    omega

/-- A pool of the queues' members extracts what the queues take. -/
theorem Takes.takeLeast {ls is ls' is' pool : List (Node × Nat)} {x : Node × Nat} (h : Takes ls is x ls' is')
    (hpool : pool.Perm (ls ++ is)) : ∃ rest, takeLeast pool = some (x, rest) ∧ rest.Perm (ls' ++ is') :=
  takeLeast_of_perm (hpool.trans h.perm) h.least

theorem twoQueueLoop_eq_mergeLoop {m k w : Nat} {nodes : List Node} {ls is pool : List (Node × Nat)}
    (h : Queues k w ls is) (hpool : pool.Perm (ls ++ is)) (hlen : pool.length = m + 1)
    (hweight : poolWeight pool < 2 ^ 64) : twoQueueLoop m k nodes ls is = mergeLoop m k nodes pool := by
  induction m generalizing k w nodes ls is pool with
  | zero => rfl
  | succ m ih =>
    obtain ⟨a, ls1, is1, ha⟩ := h.toSorted.takes (by rw [← hpool.length_eq]; omega)
    obtain ⟨pool1, htakeA, hpool1⟩ := ha.takeLeast hpool
    have hlen1 := (takeLeast_perm htakeA).length_eq
    rw [hlen, List.length_cons] at hlen1
    obtain ⟨b, ls2, is2, hb⟩ := (h.toSorted.sublist ha.leaves ha.fifo).takes (by rw [← hpool1.length_eq]; omega)
    obtain ⟨pool2, htakeB, hpool2⟩ := hb.takeLeast hpool1
    have hlen2 := (takeLeast_perm htakeB).length_eq
    rw [List.length_cons] at hlen2
    have hperm : pool.Perm (a :: b :: pool2) := (takeLeast_perm htakeA).trans ((takeLeast_perm htakeB).cons a)
    simp only [twoQueueLoop, mergeLoop, ha.eq, hb.eq, htakeA, htakeB]
    refine ih (h.merge ha hb (key_mergeNode_snd a b k) (weight_mergeNode k hperm hweight)) ?_ ?_ ?_
    · rw [← List.append_assoc]
      exact hpool2.append_right _
    · rw [List.length_append, List.length_singleton]
      omega
    · rwa [poolWeight_merge hperm hweight]

/-- The sorted leaves, before any merge. -/
theorem Queues.start {f : List FtEntry} (h : ftRises f = true) : Queues 0 0 (sortByKey (leavesOf f).zipIdx) [] where
  leaves := pairwise_sortByKey (Tagged.leaves h).distinct
  fifo := .nil
  leafKind x hx := by
    obtain ⟨e, -, he⟩ := List.mem_map.1 (List.fst_mem_of_mem_zipIdx ((sortByKey_perm _).mem_iff.1 hx))
    rw [← he]
    rfl
  nodeKind _ hx := nomatch hx
  seq _ hx := nomatch hx
  least _ _ := Nat.zero_le _
  most _ hx := nomatch hx

/-- Settles O44: at every merge the heads of the queues are the least keys of the pool. -/
theorem twoQueueEquivalence : Obligations.TwoQueueEquivalence := by
  unfold Obligations.TwoQueueEquivalence
  intro f hf
  obtain ⟨hrises, -, hlen⟩ := (ftWf_iff _ f).1 hf
  unfold twoQueueTree buildTree
  split
  · rfl
  · rename_i hne
    have hpos : 0 < f.length := List.length_pos_iff.2 (by simpa using hne)
    rw [twoQueueLoop_eq_mergeLoop (.start hrises) (by simpa using (sortByKey_perm _).symm) (by simp; omega)
      (poolWeight_leaves_lt hlen)]

end Sys2Proof.Machine
end

section
/-! PROOFS. The code table. -/

namespace Sys2Proof.Machine

/-! ### The walk of gen_codes (44_code_table.md R601) -/

/-- `walk(x, c)` as a relation, with no fuel: `codes` are the leaf indices below node `x` with their codes, where children
stand before their parent. -/
inductive Walk (nodes : List Node) : (x : Nat) → (c : Bits) → (codes : List (Nat × Bits)) → Prop
  | leaf {x : Nat} {c : Bits} {w : Weight} {sym : Sym} (hx : nodes[x]? = some (.leaf w sym)) : Walk nodes x c [(x, c)]
  | internal {x l r q : Nat} {c : Bits} {w : Weight} {left right : List (Nat × Bits)}
      (hx : nodes[x]? = some (.internal w l r q)) (hl : l < x) (hr : r < x) (hleft : Walk nodes l (c ++ [false]) left)
      (hright : Walk nodes r (c ++ [true]) right) : Walk nodes x c (left ++ right)

theorem walkCodes_leaf {nodes : List Node} {x : Nat} {w : Weight} {sym : Sym} (hx : nodes[x]? = some (.leaf w sym))
    (fuel : Nat) (c : Bits) : walkCodes nodes (fuel + 1) x c = [(x, c)] := by
  simp [walkCodes, hx]

theorem walkCodes_internal {nodes : List Node} {x l r q : Nat} {w : Weight} (hx : nodes[x]? = some (.internal w l r q))
    (fuel : Nat) (c : Bits) : walkCodes nodes (fuel + 1) x c
      = walkCodes nodes fuel l (c ++ [false]) ++ walkCodes nodes fuel r (c ++ [true]) := by
  simp [walkCodes, hx]

/-- The walk meets the same leaves in the same order from any code, with any fuel that suffices, and in any longer arena. -/
theorem Walk.map_fst_walkCodes {nodes more : List Node} {x : Nat} {c : Bits} {codes : List (Nat × Bits)}
    (h : Walk nodes x c codes) (hmore : nodes <+: more) {fuel : Nat} (hfuel : x < fuel) (c' : Bits) :
    (walkCodes more fuel x c').map Prod.fst = codes.map Prod.fst := by
  induction h generalizing fuel c' with
  | leaf hx =>
    obtain ⟨fuel, rfl⟩ := Nat.exists_eq_add_one_of_ne_zero (Nat.ne_zero_of_lt hfuel)
    rw [walkCodes_leaf (getElem?_of_prefix hmore hx)]
    rfl
  | internal hx hl hr _ _ ihl ihr =>
    obtain ⟨fuel, rfl⟩ := Nat.exists_eq_add_one_of_ne_zero (Nat.ne_zero_of_lt hfuel)
    rw [walkCodes_internal (getElem?_of_prefix hmore hx), List.map_append, List.map_append, ihl (by omega), ihr (by omega)]

/-- The code of a leaf is the code of the walk's start and the path from there to the leaf. -/
theorem Walk.exists_path {nodes : List Node} {x i : Nat} {c d : Bits} {codes : List (Nat × Bits)}
    (h : Walk nodes x c codes) (hmem : (i, d) ∈ codes) : ∃ path, d = c ++ path ∧ followBits nodes x path = some i := by
  induction h with
  | leaf hx =>
    obtain ⟨rfl, rfl⟩ := Prod.mk.inj (List.mem_singleton.1 hmem)
    exact ⟨[], (List.append_nil _).symm, rfl⟩
  | internal hx _ _ _ _ ihl ihr =>
    rcases List.mem_append.1 hmem with hmem | hmem
    · obtain ⟨path, rfl, hpath⟩ := ihl hmem
      exact ⟨false :: path, by simp, by simp [followBits, hx, hpath]⟩
    · obtain ⟨path, rfl, hpath⟩ := ihr hmem
      exact ⟨true :: path, by simp, by simp [followBits, hx, hpath]⟩

/-- A node shares its part of the Kraft sum equally between its two children (44_code_table.md R604). -/
theorem Walk.kraft_sum {nodes : List Node} {x : Nat} {c : Bits} {codes : List (Nat × Bits)} (h : Walk nodes x c codes) :
    (codes.map (fun p => (1 / 2 : ℚ) ^ p.2.length)).sum = (1 / 2) ^ c.length := by
  induction h with
  | leaf hx => simp
  | internal _ _ _ _ _ ihl ihr =>
    rw [List.map_append, List.sum_append, ihl, ihr, List.length_append, List.length_append, List.length_singleton,
      List.length_singleton, pow_succ]
    ring

/-! ### The walk of a built tree -/

theorem Arena.children_lt {f : List FtEntry} {k i l r q : Nat} {nodes : List Node} {pool : List (Node × Nat)} {w : Weight}
    (h : Arena f k nodes pool) (hi : nodes[i]? = some (.internal w l r q)) : l < i ∧ r < i := by
  have hlt := (List.getElem?_eq_some_iff.1 hi).1
  rw [h.length] at hlt
  rcases Nat.lt_or_ge i f.length with hleaf | hge
  · rw [h.getElem?_leaf (List.getElem?_eq_getElem hleaf)] at hi
    cases hi
  · obtain ⟨j, rfl⟩ := Nat.exists_eq_add_of_le hge
    obtain ⟨w', l', r', hnode, hl, hr⟩ := h.merges j (by omega)
    cases hnode.symm.trans hi
    exact ⟨hl, hr⟩

/-- The model's walk is the relation where the fuel exceeds the index of the start. -/
theorem Arena.walk_walkCodes {f : List FtEntry} {k : Nat} {nodes : List Node} {pool : List (Node × Nat)}
    (h : Arena f k nodes pool) {fuel x : Nat} (hx : x < nodes.length) (hfuel : x < fuel) (c : Bits) :
    Walk nodes x c (walkCodes nodes fuel x c) := by
  induction fuel generalizing x c with
  | zero => exact absurd hfuel (Nat.not_lt_zero x)
  | succ fuel ih =>
    have hnode := List.getElem?_eq_getElem hx
    cases hcase : nodes[x] with
    | leaf w sym =>
      rw [hcase] at hnode
      rw [walkCodes_leaf hnode]
      exact .leaf hnode
    | internal w l r q =>
      rw [hcase] at hnode
      rw [walkCodes_internal hnode]
      obtain ⟨hl, hr⟩ := h.children_lt hnode
      exact .internal hnode hl hr (ih (by omega) (by omega) _) (ih (by omega) (by omega) _)

/-- The leaves the walk meets below node `x`. -/
def leavesBelow (nodes : List Node) (x : Nat) : List Nat := (walkCodes nodes (x + 1) x []).map Prod.fst

/-- A walk of any code in a longer arena meets the leaves below its start. -/
theorem Arena.map_fst_walkCodes {f : List FtEntry} {k : Nat} {nodes more : List Node} {pool : List (Node × Nat)}
    (h : Arena f k nodes pool) (hmore : nodes <+: more) {fuel x : Nat} (hx : x < nodes.length) (hfuel : x < fuel)
    (c : Bits) : (walkCodes more fuel x c).map Prod.fst = leavesBelow nodes x :=
  (h.walk_walkCodes hx x.lt_succ_self []).map_fst_walkCodes hmore hfuel c

theorem Arena.lt_length {f : List FtEntry} {k : Nat} {nodes : List Node} {pool : List (Node × Nat)}
    (h : Arena f k nodes pool) {x : Node × Nat} (hx : x ∈ pool) : x.2 < nodes.length :=
  (List.getElem?_eq_some_iff.1 (h.pooled x hx)).1

/-- The arena during the merges, with each leaf below exactly one member of the pool. -/
structure Shared (f : List FtEntry) (k : Nat) (nodes : List Node) (pool : List (Node × Nat)) : Prop
    extends Arena f k nodes pool where
  perm_leaves : (pool.flatMap (fun x => leavesBelow nodes x.2)).Perm (List.range f.length)

theorem Shared.start {f : List FtEntry} (hf : f ≠ []) : Shared f 0 (leavesOf f) (leavesOf f).zipIdx where
  toArena := .start hf
  perm_leaves := by
    have hself : ∀ x ∈ (leavesOf f).zipIdx, leavesBelow (leavesOf f) x.2 = [x.2] := by
      intro x hx
      have hnode := List.mem_zipIdx_iff_getElem?.1 hx
      obtain ⟨e, -, he⟩ := List.mem_map.1 (List.fst_mem_of_mem_zipIdx hx)
      rw [← he] at hnode
      rw [leavesBelow, walkCodes_leaf hnode]
      rfl
    rw [List.flatMap_congr hself, ← List.map_eq_flatMap, List.zipIdx_map_snd, length_leavesOf, List.range_eq_range']

/-- Below the node of a merge are the leaves below its two children. -/
theorem Shared.merge {f : List FtEntry} : KeptByMerges (Shared f) := by
  intro k nodes pool rest a b h hperm horder
  have hprefix : nodes <+: nodes ++ [mergeNode a b k] := List.prefix_append _ _
  have hlt : ∀ x ∈ a :: b :: rest, x.2 < nodes.length := fun x hx => h.lt_length (hperm.mem_iff.2 hx)
  have hold : ∀ x ∈ rest, leavesBelow (nodes ++ [mergeNode a b k]) x.2 = leavesBelow nodes x.2 := fun x hx =>
    h.map_fst_walkCodes hprefix (hlt x (by simp [hx])) (Nat.lt_succ_self _) []
  have hnew : leavesBelow (nodes ++ [mergeNode a b k]) nodes.length = leavesBelow nodes a.2 ++ leavesBelow nodes b.2 := by
    have ha := hlt a (by simp)
    have hb := hlt b (by simp)
    have hnode : (nodes ++ [mergeNode a b k])[nodes.length]? = some (.internal (a.1.weight + b.1.weight) a.2 b.2 k) :=
      List.getElem?_concat_length
    rw [leavesBelow, walkCodes_internal hnode, List.map_append,
      h.map_fst_walkCodes hprefix ha ha, h.map_fst_walkCodes hprefix hb hb]
  refine { toArena := Arena.merge _ _ _ _ _ _ h.toArena hperm horder, perm_leaves := ?_ }
  have hbelow := (hperm.flatMap_right (fun x => leavesBelow nodes x.2)).symm.trans h.perm_leaves
  rw [List.flatMap_append, List.flatMap_congr hold, List.flatMap_singleton, hnew]
  simp only [List.flatMap_cons, ← List.append_assoc] at hbelow
  exact List.perm_append_comm.trans hbelow

/-- The walk from the root, of which gen_codes takes the codes. -/
def rootWalk (nodes : List Node) : List (Nat × Bits) := walkCodes nodes nodes.length (rootOf nodes) []

theorem length_of_buildTree {f : List FtEntry} {ns : List Node} (h : buildTree f = .ok ns) :
    ns.length = f.length + (f.length - 1) := by
  obtain ⟨_, harena⟩ := buildTree_induction Arena.merge h (.start (buildTree_ok h).1)
  exact harena.length

theorem walk_rootWalk {f : List FtEntry} {ns : List Node} (h : buildTree f = .ok ns) :
    Walk ns (rootOf ns) [] (rootWalk ns) := by
  obtain ⟨root, harena⟩ := buildTree_induction Arena.merge h (.start (buildTree_ok h).1)
  have hlt : rootOf ns < ns.length := (List.getElem?_eq_some_iff.1 harena.getElem?_root).1
  exact harena.walk_walkCodes hlt hlt []

/-- The walk from the root meets each leaf once (44_code_table.md R601). -/
theorem map_fst_rootWalk_perm {f : List FtEntry} {ns : List Node} (h : buildTree f = .ok ns) :
    ((rootWalk ns).map Prod.fst).Perm (List.range f.length) := by
  obtain ⟨root, hshared⟩ := buildTree_induction Shared.merge h (.start (buildTree_ok h).1)
  have hroot : rootOf ns = root.2 := by simpa [rootOf] using hshared.newest
  have hlt : rootOf ns < ns.length := (List.getElem?_eq_some_iff.1 hshared.getElem?_root).1
  have hperm := hshared.perm_leaves
  rwa [List.flatMap_singleton, ← hroot, ← hshared.map_fst_walkCodes (List.prefix_refl ns) hlt hlt []] at hperm

/-! ### The entries of the code table -/

theorem codeOfLeaf_of_mem {i : Nat} {d : Bits} {codes : List (Nat × Bits)} (hnodup : (codes.map Prod.fst).Nodup)
    (hmem : (i, d) ∈ codes) : codeOfLeaf i codes = d := by
  induction codes with
  | nil => exact absurd hmem List.not_mem_nil
  | cons p codes ih =>
    obtain ⟨j, c⟩ := p
    obtain ⟨hj, hnodup⟩ := List.nodup_cons.1 hnodup
    rcases List.mem_cons.1 hmem with heq | hmem
    · obtain ⟨rfl, rfl⟩ := Prod.mk.inj heq
      exact if_pos rfl
    · have hne : j ≠ i := fun heq => hj (List.mem_map.2 ⟨_, hmem, heq.symm⟩)
      rw [codeOfLeaf, if_neg hne, ih hnodup hmem]

theorem ctEntries_append (codes : List (Nat × Bits)) (l more : List (Node × Nat)) :
    ctEntries codes (l ++ more) = ctEntries codes l ++ ctEntries codes more := by
  induction l with
  | nil => rfl
  | cons x l ih =>
    obtain ⟨x, i⟩ := x
    cases x with
    | leaf w sym => exact congrArg (_ :: ·) ih
    | internal w l r q => exact ih

theorem ctEntries_leaves (codes : List (Nat × Bits)) (f : List FtEntry) (k : Nat) :
    ctEntries codes ((leavesOf f).zipIdx k) = (f.zipIdx k).map (fun p => ⟨p.1.sym, codeOfLeaf p.2 codes⟩) := by
  induction f generalizing k with
  | nil => rfl
  | cons e f ih => exact congrArg (_ :: ·) (ih (k + 1))

/-- The code table has an entry for each FT entry: its symbol and the code the walk gave to its leaf. -/
theorem genCodes_eq {f : List FtEntry} {ns : List Node} (h : buildTree f = .ok ns) :
    genCodes ns = f.zipIdx.map (fun p => ⟨p.1.sym, codeOfLeaf p.2 (rootWalk ns)⟩) := by
  obtain ⟨root, harena⟩ := buildTree_induction Arena.merge h (.start (buildTree_ok h).1)
  obtain ⟨inner, hns⟩ := harena.leaves
  have hzip : ns.zipIdx = (leavesOf f).zipIdx ++ inner.zipIdx (leavesOf f).length := by
    rw [← hns, List.zipIdx_append, Nat.zero_add]
  have hsplit : genCodes ns = ctEntries (rootWalk ns) ns.zipIdx := rfl
  rw [hzip, ctEntries_append, ctEntries_leaves] at hsplit
  have hlen := congrArg List.length (genCodes_syms h)
  rw [hsplit] at hlen ⊢
  simpa using hlen

theorem getElem?_genCodes {f : List FtEntry} {ns : List Node} (h : buildTree f = .ok ns) (i : Nat) :
    (genCodes ns)[i]? = f[i]?.map (fun e => ⟨e.sym, codeOfLeaf i (rootWalk ns)⟩) := by
  rw [genCodes_eq h]
  simp [Function.comp_def]

/-- The code of a leaf leads from the root to it. -/
theorem followBits_codeOfLeaf {f : List FtEntry} {ns : List Node} {i : Nat} (h : buildTree f = .ok ns)
    (hi : i < f.length) : followBits ns (rootOf ns) (codeOfLeaf i (rootWalk ns)) = some i := by
  have hperm := map_fst_rootWalk_perm h
  obtain ⟨⟨j, d⟩, hmem, rfl⟩ := List.mem_map.1 (hperm.mem_iff.2 (List.mem_range.2 hi))
  rw [codeOfLeaf_of_mem (hperm.nodup_iff.2 List.nodup_range) hmem]
  obtain ⟨path, rfl, hpath⟩ := (walk_rootWalk h).exists_path hmem
  exact hpath

/-- Entry `i` of the code table is of leaf `i`, and its code leads there. -/
theorem followBits_of_getElem?_genCodes {f : List FtEntry} {ns : List Node} {i : Nat} {x : CtEntry}
    (h : buildTree f = .ok ns) (hx : (genCodes ns)[i]? = some x) :
    i < f.length ∧ followBits ns (rootOf ns) x.code = some i := by
  rw [getElem?_genCodes h] at hx
  obtain ⟨e, he, rfl⟩ := Option.map_eq_some_iff.1 hx
  have hi := (List.getElem?_eq_some_iff.1 he).1
  exact ⟨hi, followBits_codeOfLeaf h hi⟩

/-! ### The longest code (44_code_table.md R600) -/

theorem length_le_longestCode {x : CtEntry} {cs : List CtEntry} (hx : x ∈ cs) : x.code.length ≤ longestCode cs := by
  induction cs with
  | nil => exact absurd hx List.not_mem_nil
  | cons y cs ih =>
    rcases List.mem_cons.1 hx with rfl | hx
    · exact Nat.le_max_left _ _
    · exact (ih hx).trans (Nat.le_max_right _ _)

theorem exists_length_eq_longestCode {cs : List CtEntry} (hcs : cs ≠ []) : ∃ x ∈ cs, x.code.length = longestCode cs := by
  induction cs with
  | nil => exact absurd rfl hcs
  | cons y cs ih =>
    rcases Nat.le_total (longestCode cs) y.code.length with hle | hle
    · exact ⟨y, List.mem_cons_self, (Nat.max_eq_left hle).symm⟩
    · by_cases hnil : cs = []
      · subst hnil
        exact ⟨y, List.mem_cons_self, (Nat.max_zero _).symm⟩
      · obtain ⟨x, hx, hlen⟩ := ih hnil
        exact ⟨x, List.mem_cons_of_mem y hx, hlen.trans (Nat.max_eq_right hle).symm⟩

theorem execGencode_of_nodes {s : State} {ns : List Node} (hs : s.nodes = some ns) :
    exec .gencode s = .next (complete 0 (resultWord (longestCode (genCodes ns))) { s with ct := some (genCodes ns) }) := by
  simp [exec, execGencode, hs]

/-- Settles O45: the walk meets each leaf with the bits of its path. -/
theorem gencodeWritesPaths : Obligations.GencodeWritesPaths := by
  unfold Obligations.GencodeWritesPaths
  intro s f ns hs h
  have hlen : (genCodes ns).length = f.length := by simp [genCodes_eq h]
  have hne : genCodes ns ≠ [] := fun hnil => (buildTree_ok h).1 (by simpa [hnil, eq_comm] using hlen)
  refine ⟨genCodes ns, longestCode (genCodes ns), execGencode_of_nodes hs, hlen, fun i e he => ?_,
    fun x => length_le_longestCode, exists_length_eq_longestCode hne⟩
  have hx : (genCodes ns)[i]? = some ⟨e.sym, codeOfLeaf i (rootWalk ns)⟩ := by rw [getElem?_genCodes h, he]; rfl
  exact ⟨_, hx, rfl, (followBits_of_getElem?_genCodes h hx).2⟩

/-! ### No code begins another, and the Kraft sum is 1 (44_code_table.md R604) -/

theorem followBits_append (nodes : List Node) (x : Nat) (p q : Bits) :
    followBits nodes x (p ++ q) = (followBits nodes x p).bind (fun y => followBits nodes y q) := by
  induction p generalizing x with
  | nil => rfl
  | cons b p ih =>
    rw [List.cons_append, followBits, followBits]
    split
    · exact ih _
    · rfl

/-- No path leads from a leaf to another node. -/
theorem eq_of_followBits_leaf {nodes : List Node} {i j : Nat} {w : Weight} {sym : Sym} {q : Bits}
    (hi : nodes[i]? = some (.leaf w sym)) (h : followBits nodes i q = some j) : i = j := by
  cases q with
  | nil => exact Option.some.inj h
  | cons b q => simp [followBits, hi] at h

theorem getElem?_leaf_of_buildTree {f : List FtEntry} {ns : List Node} {i : Nat} (h : buildTree f = .ok ns)
    (hi : i < f.length) : ∃ w sym, ns[i]? = some (.leaf w sym) := by
  obtain ⟨root, harena⟩ := buildTree_induction Arena.merge h (.start (buildTree_ok h).1)
  exact ⟨_, _, harena.getElem?_leaf (List.getElem?_eq_getElem hi)⟩

/-- Of two or more leaves none is the root. -/
theorem code_ne_nil {f : List FtEntry} {ns : List Node} (h : buildTree f = .ok ns) (hf : 2 ≤ f.length) :
    ∀ x ∈ genCodes ns, x.code ≠ [] := by
  intro x hx hnil
  obtain ⟨i, hi⟩ := List.mem_iff_getElem?.1 hx
  obtain ⟨hlt, hpath⟩ := followBits_of_getElem?_genCodes h hi
  rw [hnil] at hpath
  have hroot : rootOf ns = i := Option.some.inj hpath
  have hlen := length_of_buildTree h
  unfold rootOf at hroot
  omega

/-- A code that starts with the code of a leaf leads from that leaf on, so nowhere else. -/
theorem not_code_prefix {f : List FtEntry} {ns : List Node} {i j : Nat} {x y : CtEntry} (h : buildTree f = .ok ns)
    (hne : i ≠ j) (hx : (genCodes ns)[i]? = some x) (hy : (genCodes ns)[j]? = some y) : ¬ x.code <+: y.code := by
  rintro ⟨q, hq⟩
  obtain ⟨hi, hpathx⟩ := followBits_of_getElem?_genCodes h hx
  obtain ⟨-, hpathy⟩ := followBits_of_getElem?_genCodes h hy
  obtain ⟨w, sym, hleaf⟩ := getElem?_leaf_of_buildTree h hi
  rw [← hq, followBits_append, hpathx] at hpathy
  exact hne (eq_of_followBits_leaf hleaf hpathy)

theorem kraft_sum_genCodes {f : List FtEntry} {ns : List Node} (h : buildTree f = .ok ns) :
    ((genCodes ns).map (fun x => (1 / 2 : ℚ) ^ x.code.length)).sum = 1 := by
  have hperm := map_fst_rootWalk_perm h
  have hnodup := hperm.nodup_iff.2 List.nodup_range
  calc ((genCodes ns).map (fun x => (1 / 2 : ℚ) ^ x.code.length)).sum
      = ((List.range f.length).map (fun i => (1 / 2 : ℚ) ^ (codeOfLeaf i (rootWalk ns)).length)).sum := by
        rw [genCodes_eq h, List.range_eq_range', ← List.zipIdx_map_snd 0 f, List.map_map, List.map_map]
        rfl
    _ = (((rootWalk ns).map Prod.fst).map (fun i => (1 / 2 : ℚ) ^ (codeOfLeaf i (rootWalk ns)).length)).sum :=
        (hperm.map _).sum_eq.symm
    _ = ((rootWalk ns).map (fun p => (1 / 2 : ℚ) ^ p.2.length)).sum := by
        rw [List.map_map]
        refine congrArg List.sum (List.map_congr_left fun p hp => ?_)
        rw [Function.comp_apply, codeOfLeaf_of_mem hnodup hp]
    _ = (1 / 2) ^ ([] : Bits).length := (walk_rootWalk h).kraft_sum
    _ = 1 := pow_zero _

/-- With one entry the root is the leaf (44_code_table.md R602). -/
theorem genCodes_single {e : FtEntry} {ns : List Node} (h : buildTree [e] = .ok ns) : genCodes ns = [⟨e.sym, []⟩] := by
  obtain ⟨-, rfl⟩ := buildTree_ok h
  rfl

/-- Settles O46: the code of a leaf leads from the root to that leaf and to no other, and each node shares its part of the
Kraft sum between its children. -/
theorem codesArePrefixFree : Obligations.CodesArePrefixFree := by
  unfold Obligations.CodesArePrefixFree
  intro f ns h
  refine ⟨fun hf => ⟨code_ne_nil h hf, fun i j x y => not_code_prefix h, kraft_sum_genCodes h⟩, ?_⟩
  rintro e rfl
  exact genCodes_single h

end Sys2Proof.Machine
end

section
/-! PROOFS. ENCODE: what it computes for a text of supported symbols, its errors, what it stores, and the tables it leaves
(45_encoder.md). -/

namespace Sys2Proof.Machine

/-! ### Success and failure of ENCODE (45_encoder.md R650) -/

theorem ErrKind.code_ne_zero (k : ErrKind) : k.code ≠ 0 := by cases k <;> decide

theorem encodeCommand_of_rangeOk {s : State} (h : RangeOk .encode s) :
    encodeCommand s = encodeText s.cfgMaxDistinct.toNat s.dstCap.toNat (sourceBytes s) := by
  rw [encodeCommand, (checkRegions_ok s).2 h]
  rfl

/-- An ENCODE that leaves the report clear passed its range checks and encoded the text. -/
theorem execEncode_succeeded {s t : State} (h : exec .encode s = .next t) (ht : t.errCode = 0) :
    ∃ r, RangeOk .encode s ∧ encodeText s.cfgMaxDistinct.toNat s.dstCap.toNat (sourceBytes s) = .ok r
      ∧ t = complete (resultWord r.size) (resultWord r.bitlen)
          (memWrite s.dstAddr.toNat r.bytes { s with ft := some r.ft, nodes := some r.nodes, ct := some r.ct }) := by
  obtain ⟨e, -, rfl⟩ | ⟨r, hr, rfl⟩ := execEncode_cases h
  · exact absurd ht e.kind.code_ne_zero
  · obtain ⟨hregions, hr⟩ := encodeCommand_ok hr
    exact ⟨r, (checkRegions_ok s).1 hregions, hr, rfl⟩

/-- Settles O27: an error completion of ENCODE writes no byte and has the three tables for its targets. -/
theorem encodeFailureWritesNothing : Obligations.EncodeFailureWritesNothing := by
  unfold Obligations.EncodeFailureWritesNothing
  intro s t h0 h ht
  obtain ⟨e, -, rfl⟩ | ⟨r, -, rfl⟩ := execEncode_cases h
  · exact ⟨rfl, rfl, rfl, rfl⟩
  · exact absurd h0 ht

/-! ### The bytes a success stores (45_encoder.md R657; 46_decoder.md R728) -/

/-- A length that is within a 32-bit bound fits its result register. -/
theorem toNat_resultWord {n : Nat} {w : Word} (h : n ≤ w.toNat) : (resultWord n).toNat = n :=
  Nat.mod_eq_of_lt (Nat.lt_of_le_of_lt h w.isLt)

/-- An ENCODE or DECODE that leaves the report clear stored the bytes that RESULT_LEN counts. -/
theorem exec_stored {i : Instr} {s t : State} (hi : i = .encode ∨ i = .decode) (h : exec i s = .next t)
    (ht : t.errCode = 0) :
    ∃ bs, bs.length ≤ s.dstCap.toNat ∧ t.resultLen = resultWord bs.length
      ∧ t.buf = Memory.writeList s.buf s.dstAddr.toNat bs := by
  rcases hi with rfl | rfl
  · obtain ⟨r, -, hr, rfl⟩ := execEncode_succeeded h ht
    obtain ⟨-, -, -, -, -, -, hcap, -⟩ := encodeText_ok hr
    have hlen := encodeText_bytes_length hr
    exact ⟨r.bytes, hlen.trans_le hcap, by rw [hlen]; rfl, rfl⟩
  · obtain ⟨e, -, rfl⟩ | ⟨e, -, -, rfl⟩ | ⟨r, -, hr, rfl⟩ := execDecode_cases h
    · exact absurd ht e.kind.code_ne_zero
    · exact absurd ht e.kind.code_ne_zero
    · obtain ⟨p, bitlen, packed, -, -, -, hwalk⟩ := decodeArtifact_ok hr
      exact ⟨r.bytes, walkStream_length_le hwalk, rfl, rfl⟩

/-- Settles O26: outside the bytes that were stored every byte reads as before. -/
theorem storesOnlyResultBytes : Obligations.StoresOnlyResultBytes := by
  unfold Obligations.StoresOnlyResultBytes
  intro i s t hi _ h ht
  obtain ⟨bs, hcap, hresult, hbuf⟩ := exec_stored hi h ht
  have hlen : t.resultLen.toNat = bs.length := by rw [hresult, toNat_resultWord hcap]
  rw [hlen]
  have hpower : t.powerOn = s.powerOn := exec_powerOn h
  exact ⟨hcap, fun a ha => (readByte_congr (s := memWrite s.dstAddr.toNat bs s) hbuf hpower a).trans
    (readByte_memWrite_outside s _ a bs ha)⟩

/-! ### ENCODE runs the three units (45_encoder.md R652) -/

theorem execCount_of_countText {s : State} {f : List FtEntry} {total : Nat} (hsrc : SrcOk s)
    (h : countText s.cfgMaxDistinct.toNat (sourceBytes s) = .ok (f, total)) :
    exec .count s = .next (complete 0 (resultWord total) { s with ft := some f, nodes := none, ct := none }) := by
  have hcommand : countCommand s = .ok (f, total) := by
    rw [countCommand, (checkSrc_ok s).2 hsrc]
    exact h
  rw [exec, execCount, hcommand]

/-- Settles O49: the passes of ENCODE are COUNT's, BUILD's and GENCODE's own. -/
theorem encodeEqualsUnits : Obligations.EncodeEqualsUnits := by
  unfold Obligations.EncodeEqualsUnits
  intro s t h0 h ht
  obtain ⟨r, ⟨hsrc, -⟩, hr, rfl⟩ := execEncode_succeeded h ht
  obtain ⟨⟨total, hcount⟩, htree, hct, -⟩ := encodeText_ok hr
  exact ⟨_, _, _, execCount_of_countText hsrc hcount, execBuild_of_buildTree rfl htree, execGencode_of_nodes rfl, h0,
    rfl, rfl, congrArg some hct.symm⟩

/-! ### ENCODE of a text of supported symbols (45_encoder.md R653 to R656) -/

/-- The code bits of an encoded text are the codes of its symbols. -/
theorem textBits_textSymbols_textOf (ct : List CtEntry) {syms : List Sym} (hsyms : ∀ v ∈ syms, symOk v = true)
    (o : Nat) : textBits ct (textSymbols 0 o (textOf syms)) = codesOf ct syms := by
  induction syms generalizing o with
  | nil => rfl
  | cons v syms ih =>
    obtain ⟨hv, hsyms⟩ := List.forall_mem_cons.1 hsyms
    have htext : textOf (v :: syms) = utf8 v ++ textOf syms := rfl
    rw [htext, textSymbols_utf8_append (isScalar_of_symOk hv), textBits, ih hsyms]
    rfl

/-- The symbols of a source region are fewer than 2^32. -/
theorem length_le_of_sourceBytes {s : State} {syms : List Sym} (h : sourceBytes s = textOf syms) :
    syms.length ≤ maxU32 :=
  (length_le_length_textOf syms).trans (h ▸ length_sourceBytes_le s)

/-- `bitlen` of a text of supported symbols is the number of its code bits. -/
theorem bitLength_eq_length_codesOf {m total : Nat} {syms : List Sym} {f : List FtEntry} {ns : List Node}
    (hsyms : ∀ v ∈ syms, symOk v = true) (hcount : countText m (textOf syms) = .ok (f, total))
    (htree : buildTree f = .ok ns) : bitLength f (genCodes ns) = (codesOf (genCodes ns) syms).length := by
  rw [← textBits_length hcount htree, textBits_textSymbols_textOf _ hsyms]

/-! ### What ENCODE checks after the counting pass and the tree, in its order (45_encoder.md R650) -/

/-- An empty text has an empty table, and so no tree. -/
theorem encodeText_nil (m cap : Nat) : encodeText m cap [] = .error (err .emptyInput 0 0) := rfl

section
variable {m cap total : Nat} {text : List Byte} {f : List FtEntry} {ns : List Node}
  (hcount : countText m text = .ok (f, total)) (htree : buildTree f = .ok ns)
include hcount htree

theorem encodeText_of_bitLength_gt (hbits : bitLength f (genCodes ns) > maxU32) :
    encodeText m cap text = .error (err .countOverflow 3 0) := by
  simp only [encodeText, bind, Except.bind, hcount, htree, if_pos hbits]

theorem encodeText_of_size_gt (hbits : bitLength f (genCodes ns) ≤ maxU32)
    (hsize : artifactSize f (bitLength f (genCodes ns)) > cap) :
    encodeText m cap text = .error (err .outputOverflow 0 (artifactSize f (bitLength f (genCodes ns)))) := by
  simp only [encodeText, bind, Except.bind, hcount, htree, if_neg (Nat.not_lt.2 hbits), if_pos hsize]

theorem encodeText_of_size_le (hbits : bitLength f (genCodes ns) ≤ maxU32)
    (hsize : artifactSize f (bitLength f (genCodes ns)) ≤ cap) :
    encodeText m cap text = .ok {
      ft := f
      nodes := ns
      ct := genCodes ns
      bytes := artifact f (genCodes ns) (bitLength f (genCodes ns)) text
      size := artifactSize f (bitLength f (genCodes ns))
      bitlen := bitLength f (genCodes ns) } := by
  simp only [encodeText, bind, Except.bind, hcount, htree, if_neg (Nat.not_lt.2 hbits), if_neg (Nat.not_lt.2 hsize)]

end

theorem execEncode_failed {s : State} {e : Err} (hrange : RangeOk .encode s)
    (h : encodeText s.cfgMaxDistinct.toNat s.dstCap.toNat (sourceBytes s) = .error e) :
    ∃ t, exec .encode s = .next t ∧ Failed t e.kind.code e.sub e.info :=
  ⟨raiseErr (targetsOf .encode) e s, by rw [exec, execEncode, encodeCommand_of_rangeOk hrange, h],
    failed_raiseErr _ _ _⟩

/-- Settles O48: an empty text has no tree; for any other the bit length and the size are checked in this order. -/
theorem encodeErrors : Obligations.EncodeErrors := by
  unfold Obligations.EncodeErrors
  refine fun s hrange => ⟨fun hempty => ?_, ?_⟩
  · have htext : sourceBytes s = [] := by simp [← List.length_eq_zero_iff, sourceBytes, hempty]
    exact execEncode_failed (e := err .emptyInput 0 0) hrange (htext ▸ encodeText_nil _ _)
  · rintro syms f ns _ htext hsyms hf hm htree rfl
    have hcount := countText_textOf hf hsyms (length_le_of_sourceBytes htext) hm
    rw [← bitLength_eq_length_codesOf hsyms hcount htree]
    rw [← htext] at hcount
    exact ⟨fun hlong => execEncode_failed hrange (encodeText_of_bitLength_gt hcount htree hlong),
      fun hshort hsize => execEncode_failed hrange (encodeText_of_size_gt hcount htree hshort hsize)⟩

/-- Settles O47: the artifact of the text has the size that is checked, and its stream bits are the codes of the symbols. -/
theorem encodeWritesArtifact : Obligations.EncodeWritesArtifact := by
  unfold Obligations.EncodeWritesArtifact
  rintro s syms f ns _ art hrange htext hsyms hf hm htree rfl hshort hart hcap
  have hcount := countText_textOf hf hsyms (length_le_of_sourceBytes htext) hm
  have hstream := textBits_textSymbols_textOf (genCodes ns) hsyms 0
  have hartifact : art = artifact f (genCodes ns) (codesOf (genCodes ns) syms).length (textOf syms) := by
    rw [hart, artifact, hstream]
  have hlen : art.length = artifactSize f (codesOf (genCodes ns) syms).length := by
    rw [hartifact, artifact_length, hstream]
  rw [← bitLength_eq_length_codesOf hsyms hcount htree] at hshort hartifact hlen ⊢
  rw [← htext] at hcount
  rw [hlen] at hcap
  rw [exec, execEncode, encodeCommand_of_rangeOk hrange, encodeText_of_size_le hcount htree hshort hcap, htext,
    ← hartifact, ← hlen]
  rfl

end Sys2Proof.Machine
end

section
/-! PROOFS. Serialised tables, headers and packed bits read back (46_decoder.md R702, R720, R721). -/

namespace Sys2Proof.Machine

/-! ### The parser on a serialised table (46_decoder.md R702) -/

theorem readVarint_leb (c : Word) (rest : List Byte) : readVarint (leb c ++ rest) = some (c.toNat, (leb c).length) :=
  readVarint_lebGroups rest (lt_pow_of_word c)

theorem ftLookup_of_absent {v : Sym} {f : List FtEntry} (h : v ∉ f.map (·.sym)) : ftLookup v f = none :=
  Option.eq_none_iff_forall_ne_some.2 fun _ hc => h (List.mem_map_of_mem (f := (·.sym)) (mem_of_ftLookup hc))

theorem parseFt_skip (m o : Nat) (f : List FtEntry) (bs rest : List Byte) :
    parseFt m bs.length o f (bs ++ rest) = parseFt m 0 (o + bs.length) f rest := by
  induction bs generalizing o with
  | nil => rfl
  | cons b bs ih => rw [List.length_cons, List.cons_append, parseFt, ih, Nat.add_right_comm, Nat.add_assoc]

/-- The bytes of one entry (30_encoding.md R331). -/
def entryBytes (e : FtEntry) : List Byte := utf8 e.sym ++ leb e.count

theorem serialiseFt_cons_append (e : FtEntry) (f : List FtEntry) (rest : List Byte) :
    serialiseFt (e :: f) ++ rest = entryBytes e ++ (serialiseFt f ++ rest) := List.append_assoc _ _ _

section
variable {m : Nat} {g : List FtEntry} {e : FtEntry}

/-- The entry of a new symbol is read back if it fits the table. -/
theorem parseEntry_entryBytes (o : Nat) (hsym : isScalar e.sym = true) (hnew : e.sym ∉ g.map (·.sym))
    (hroom : g.length ≠ m) (rest : List Byte) :
    parseEntry m o g (entryBytes e ++ rest) = .ok (e.sym, e.count, (entryBytes e).length) := by
  have hat : utf8At (entryBytes e ++ rest) = some (e.sym, (utf8 e.sym).length) := by
    rw [entryBytes, List.append_assoc, utf8At_utf8_append hsym, utf8_length]
  have hdrop : (entryBytes e ++ rest).drop (utf8 e.sym).length = leb e.count ++ rest := by
    rw [entryBytes, List.append_assoc, List.drop_left]
  have hmax : ¬ e.count.toNat > maxU32 := Nat.not_lt.2 (Nat.le_of_lt_succ e.count.isLt)
  have hlen : (entryBytes e).length = (utf8 e.sym).length + (leb e.count).length := List.length_append
  simp [parseEntry, hat, ftLookup_of_absent hnew, hroom, hdrop, readVarint_leb, hmax, hlen]

/-- Parsing passes over that entry and sets it in the table. -/
theorem parseFt_entryBytes (o : Nat) (hsym : isScalar e.sym = true) (hnew : e.sym ∉ g.map (·.sym))
    (hroom : g.length ≠ m) (rest : List Byte) :
    parseFt m 0 o g (entryBytes e ++ rest)
      = parseFt m 0 (o + (entryBytes e).length) (ftSet e.sym e.count g) rest := by
  have hentry := parseEntry_entryBytes o hsym hnew hroom rest
  have hne : entryBytes e ≠ [] := List.append_ne_nil_of_left_ne_nil (utf8_ne_nil e.sym) _
  obtain ⟨b, bs, hbytes⟩ := List.exists_cons_of_ne_nil hne
  rw [hbytes, List.cons_append] at hentry ⊢
  rw [parseFt, hentry, List.length_cons, Nat.add_comm bs.length, ← Nat.add_assoc, ← parseFt_skip]
  simp

/-- Parsing passes over a serialised table, its entries in any order, and adds them to the entries so far. -/
theorem parseFt_serialiseFt {f : List FtEntry} (rest : List Byte) {o : Nat}
    (hscalar : ∀ e ∈ f, isScalar e.sym = true)
    (hnodup : ((f ++ g).map (·.sym)).Nodup) (hlen : (f ++ g).length ≤ m) (hg : ftRises g = true) :
    ∃ g', g'.Perm (f ++ g) ∧ ftRises g' = true
      ∧ parseFt m 0 o g (serialiseFt f ++ rest) = parseFt m 0 (o + (serialiseFt f).length) g' rest := by
  induction f generalizing o g with
  | nil => exact ⟨g, .refl g, hg, rfl⟩
  | cons e f ih =>
    obtain ⟨he, hscalar⟩ := List.forall_mem_cons.1 hscalar
    have hmiddle : (f ++ e :: g).Perm ((e :: f) ++ g) := List.perm_middle
    have hnew : e.sym ∉ g.map (·.sym) := by
      rw [List.cons_append, List.map_cons, List.nodup_cons, List.map_append, List.mem_append, not_or] at hnodup
      exact hnodup.1.2
    have hset : (ftSet e.sym e.count g).Perm (e :: g) :=
      ftSet_perm_of_absent e.count fun x hx heq => hnew (List.mem_map.2 ⟨x, hx, heq⟩)
    have hperm : (f ++ ftSet e.sym e.count g).Perm ((e :: f) ++ g) := (hset.append_left f).trans hmiddle
    have hroom : g.length ≠ m := by
      simp only [List.length_append, List.length_cons] at hlen
      omega
    obtain ⟨g', hg', hrises, hparse⟩ := ih (o := o + (entryBytes e).length) hscalar
      ((hperm.map _).nodup_iff.2 hnodup) (hperm.length_eq.trans_le hlen) (ftRises_ftSet _ _ hg)
    refine ⟨g', hg'.trans hperm, hrises, ?_⟩
    have hbytes : (serialiseFt (e :: f)).length = (entryBytes e).length + (serialiseFt f).length := List.length_append
    rw [serialiseFt_cons_append, parseFt_entryBytes o he hnew hroom, hparse, hbytes, Nat.add_assoc]

end

theorem eq_of_perm_of_ftRises {f g : List FtEntry} (hperm : f.Perm g) (hf : ftRises f = true) (hg : ftRises g = true) :
    f = g :=
  hperm.eq_of_pairwise (fun _ _ _ _ hab hba => absurd hab hba.asymm) ((ftRises_iff f).1 hf) ((ftRises_iff g).1 hg)

/-- The parser finds the sentinel behind a serialised table, its entries in any order, and leaves the sorted table. -/
theorem parseArtifact_serialiseFt {m : Nat} {f g : List FtEntry}
    (hf : ∀ e ∈ f, symOk e.sym = true ∧ e.count ≠ 0) (hperm : g.Perm f) (hg : ftRises g = true) (hm : f.length ≤ m)
    (rest : List Byte) :
    parseArtifact m (serialiseFt f ++ 0#8 :: rest) = .ok ((serialiseFt f).length, g) := by
  have hnodup : (f.map (·.sym)).Nodup := (hperm.map _).nodup_iff.1 (nodup_of_ftRises hg)
  obtain ⟨g', hg', hrises, hparse⟩ := parseFt_serialiseFt (m := m) (g := []) [] (o := 0)
    (fun e he => isScalar_of_symOk (hf e he).1) (by rwa [List.append_nil]) (by rwa [List.append_nil]) rfl
  rw [List.append_nil] at hg' hparse
  rw [eq_of_perm_of_ftRises (hg'.trans hperm.symm) hrises hg, parseFt] at hparse
  have hscan : sentinelScan (serialiseFt f ++ 0#8 :: rest) = .ok (serialiseFt f).length := by
    rw [sentinelScan, sentinelAt_append_zero (zero_not_mem_serialiseFt hf)]
  rw [parseArtifact, hscan]
  simp [bind, Except.bind, hparse]

/-! ### The header, and the parts of an artifact in sequence (46_decoder.md R720, R721) -/

theorem beValue_be32 (w : Word) : beValue (be32 w) = w.toNat := by
  have hw := w.isLt
  simp only [be32, beValue, BitVec.extractLsb'_toNat, Nat.shiftRight_eq_div_pow, List.length_cons, List.length_nil]
  omega

theorem beValue_be32_ofNat {n : Nat} (h : n ≤ maxU32) : beValue (be32 (BitVec.ofNat 32 n)) = n := by
  rw [beValue_be32, BitVec.toNat_ofNat]
  exact Nat.mod_eq_of_lt (Nat.lt_succ_of_le h)

/-- A header of four bytes behind the sentinel gives its value, if the packed bytes hold as many bits. -/
theorem readHeader_append {header packed : List Byte} (seg : List Byte) (hheader : header.length = 4)
    (hbits : beValue header ≤ 8 * packed.length) :
    readHeader seg.length (seg ++ 0#8 :: (header ++ packed)) = .ok (beValue header, packed) := by
  have hbehind : (seg ++ 0#8 :: (header ++ packed)).drop (seg.length + 1) = header ++ packed := by
    rw [List.drop_append]
    simp
  have hpacked : (seg ++ 0#8 :: (header ++ packed)).drop (seg.length + 5) = packed := by
    rw [show seg.length + 5 = seg.length + 1 + header.length by omega, ← List.drop_drop, hbehind, List.drop_left]
  have hlen : (seg ++ 0#8 :: (header ++ packed)).length = seg.length + 5 + packed.length := by
    simp [hheader]
    omega
  have htake : (header ++ packed).take 4 = header := by rw [← hheader, List.take_left]
  have hfit : ¬ beValue header > 8 * (seg.length + 5 + packed.length - seg.length - 5) := by omega
  have henough : ¬ seg.length + 5 > seg.length + 5 + packed.length := by omega
  simp only [readHeader, hlen, if_neg henough, hbehind, htake, if_neg hfit, hpacked]

/-- A well-formed artifact, its entries in any order, decodes to its sorted table, the tree of that, and what the walk over
its stream bits gives (46_decoder.md R720). -/
theorem decodeArtifact_append {m cap bitlen : Nat} {f g : List FtEntry} {ns : List Node} {packed : List Byte}
    (hf : ∀ e ∈ f, symOk e.sym = true ∧ e.count ≠ 0) (hperm : g.Perm f) (hg : ftRises g = true) (hm : f.length ≤ m)
    (htree : buildTree g = .ok ns) (hbitlen : bitlen ≤ maxU32) (hpacked : bitlen ≤ 8 * packed.length) :
    decodeArtifact m cap (serialiseFt f ++ [0#8] ++ be32 (BitVec.ofNat 32 bitlen) ++ packed)
      = (walkStream g ns cap bitlen packed).map fun r => ⟨g, ns, r.1, r.2⟩ := by
  have hvalue := beValue_be32_ofNat hbitlen
  have hparse := parseArtifact_serialiseFt hf hperm hg hm (be32 (BitVec.ofNat 32 bitlen) ++ packed)
  have hheader := readHeader_append (serialiseFt f) (header := be32 (BitVec.ofNat 32 bitlen)) rfl
    (hvalue.trans_le hpacked)
  rw [List.append_assoc, List.append_assoc, List.singleton_append, decodeArtifact, hparse]
  simp only [bind, Except.bind, hheader, hvalue, htree]
  cases walkStream g ns cap bitlen packed <;> rfl

/-- The packed bytes hold the bits they were packed from. -/
theorem streamBits_packBits (bits : Bits) : streamBits bits.length (packBits bits) = bits := by
  rw [streamBits, flatMap_packBits, List.take_left]

theorem length_le_packBits (bits : Bits) : bits.length ≤ 8 * (packBits bits).length := by
  rw [packBits_length, ceilDiv8]
  omega

end Sys2Proof.Machine
end

section
/-! PROOFS. The walk over the stream bits of a text (46_decoder.md R724 to R726). -/

namespace Sys2Proof.Machine

/-! ### The output (46_decoder.md R728) -/

theorem textOf_append (p q : List Sym) : textOf (p ++ q) = textOf p ++ textOf q := List.flatMap_append

theorem emit_of_fits {cap : Nat} {v : Sym} {out : List Byte} (h : out.length + (utf8 v).length ≤ cap) :
    emit cap v out = .ok (out ++ utf8 v) := if_neg (Nat.not_lt.2 h)

theorem emitRepeat_of_fits {cap count : Nat} {v : Sym} {out : List Byte}
    (h : out.length + (textOf (List.replicate count v)).length ≤ cap) :
    emitRepeat cap v count out = .ok (out ++ textOf (List.replicate count v)) := by
  induction count generalizing out with
  | zero => exact congrArg Except.ok (List.append_nil out).symm
  | succ count ih =>
    have htext : textOf (List.replicate (count + 1) v) = utf8 v ++ textOf (List.replicate count v) := rfl
    rw [htext, List.length_append] at h
    rw [emitRepeat, emit_of_fits (by omega)]
    simp only
    rw [ih (by rw [List.length_append]; omega), htext, List.append_assoc]

/-! ### The bits of one codeword (46_decoder.md R726) -/

theorem followBits_cons {nodes : List Node} {x i : Nat} {b : Bool} {q : Bits}
    (h : followBits nodes x (b :: q) = some i) :
    ∃ w l r k, nodes[x]? = some (.internal w l r k) ∧ followBits nodes (if b then r else l) q = some i := by
  unfold followBits at h
  split at h
  · exact ⟨_, _, _, _, ‹_›, h⟩
  · exact nomatch h

/-- The bits of a path to a leaf emit its symbol and lead back to the root. -/
theorem walkBits_path {nodes : List Node} {root cap i : Nat} {w : Weight} {v : Sym} {q : Bits} (hq : q ≠ [])
    (hleaf : nodes[i]? = some (.leaf w v)) {x : Nat} (hpath : followBits nodes x q = some i) (bits : Bits)
    (k start nsym : Nat) (out : List Byte) :
    walkBits nodes root cap (q ++ bits) k x start out nsym
      = emit cap v out >>= fun out' =>
          walkBits nodes root cap bits (k + q.length) root (k + q.length) out' (nsym + 1) := by
  induction q generalizing x k with
  | nil => exact absurd rfl hq
  | cons b q ih =>
    obtain ⟨w', l, r, j, hx, hrest⟩ := followBits_cons hpath
    rw [List.cons_append, walkBits, hx]
    cases q with
    | nil =>
      have hy : (if b then r else l) = i := Option.some.inj hrest
      simp only [hy, hleaf]
      cases emit cap v out <;> rfl
    | cons b' q =>
      obtain ⟨w'', l', r', j', hy, -⟩ := followBits_cons hrest
      have hwalk := ih (List.cons_ne_nil b' q) hrest (k + 1)
      simp only [hy, hwalk, List.length_cons, Nat.add_assoc, Nat.add_comm 1]

/-! ### The codes of a text -/

/-- The code of a symbol of the table leads from the root to its leaf. -/
theorem exists_leaf_of_codeOf {f : List FtEntry} {ns : List Node} {v : Sym} (h : buildTree f = .ok ns)
    (hnodup : (f.map (·.sym)).Nodup) (hv : v ∈ f.map (·.sym)) :
    ∃ i w, ns[i]? = some (.leaf w v) ∧ followBits ns (rootOf ns) (codeOf v (genCodes ns)) = some i
      ∧ ∃ x ∈ genCodes ns, x.code = codeOf v (genCodes ns) := by
  obtain ⟨e, he, rfl⟩ := List.mem_map.1 hv
  obtain ⟨i, hi⟩ := List.mem_iff_getElem?.1 he
  obtain ⟨root, harena⟩ := buildTree_induction Arena.merge h (.start (buildTree_ok h).1)
  have hx : (genCodes ns)[i]? = some ⟨e.sym, codeOfLeaf i (rootWalk ns)⟩ := by rw [getElem?_genCodes h, hi]; rfl
  have hmem := List.mem_of_getElem? hx
  have hcode := codeOf_of_mem (genCodes_syms h ▸ hnodup) hmem
  refine ⟨i, _, harena.getElem?_leaf hi, ?_, _, hmem, hcode.symm⟩
  rw [hcode]
  exact (followBits_of_getElem?_genCodes h hx).2

section
variable {f : List FtEntry} {ns : List Node} (h : buildTree f = .ok ns) (hf : 2 ≤ f.length)
  (hnodup : (f.map (·.sym)).Nodup)
include h hf hnodup

/-- The code of one symbol, whatever bits follow it. -/
theorem walkBits_codeOf (cap : Nat) {v : Sym} (hv : v ∈ f.map (·.sym)) (bits : Bits) (k nsym : Nat) (out : List Byte) :
    walkBits ns (rootOf ns) cap (codeOf v (genCodes ns) ++ bits) k (rootOf ns) k out nsym
      = emit cap v out >>= fun out' =>
          walkBits ns (rootOf ns) cap bits (k + (codeOf v (genCodes ns)).length) (rootOf ns)
            (k + (codeOf v (genCodes ns)).length) out' (nsym + 1) := by
  obtain ⟨i, w, hleaf, hpath, x, hx, hcode⟩ := exists_leaf_of_codeOf h hnodup hv
  exact walkBits_path (hcode ▸ code_ne_nil h hf x hx) hleaf hpath bits k k nsym out

/-- The codes of symbols that fit, whatever bits follow them. -/
theorem walkBits_codesOf {cap : Nat} {syms : List Sym} (hsyms : ∀ v ∈ syms, v ∈ f.map (·.sym)) (bits : Bits)
    {k nsym : Nat} {out : List Byte} (hcap : out.length + (textOf syms).length ≤ cap) :
    walkBits ns (rootOf ns) cap (codesOf (genCodes ns) syms ++ bits) k (rootOf ns) k out nsym
      = walkBits ns (rootOf ns) cap bits (k + (codesOf (genCodes ns) syms).length) (rootOf ns)
          (k + (codesOf (genCodes ns) syms).length) (out ++ textOf syms) (nsym + syms.length) := by
  induction syms generalizing k nsym out with
  | nil => simp [codesOf, textOf]
  | cons v syms ih =>
    obtain ⟨hv, hsyms⟩ := List.forall_mem_cons.1 hsyms
    have hcodes : codesOf (genCodes ns) (v :: syms) = codeOf v (genCodes ns) ++ codesOf (genCodes ns) syms := rfl
    have htext : textOf (v :: syms) = utf8 v ++ textOf syms := rfl
    rw [htext, List.length_append] at hcap
    rw [hcodes, List.append_assoc, walkBits_codeOf h hf hnodup cap hv, emit_of_fits (by omega)]
    refine (ih hsyms (by rw [List.length_append]; omega)).trans ?_
    simp [htext, Nat.add_assoc, Nat.add_comm 1]

end

/-! ### The packed codes of a text (46_decoder.md R724, R725) -/

/-- A text of one symbol repeats it as often as its tally counts. -/
theorem Tally.eq_replicate {e : FtEntry} {syms : List Sym} (hf : Tally [e] syms) (hlen : syms.length ≤ maxU32) :
    syms = List.replicate e.count.toNat e.sym := by
  have hall : ∀ v ∈ syms, v = e.sym := fun v hv => by simpa using (hf.mem_map_sym hlen).2 hv
  have hcount : e.count.toNat = syms.count e.sym := ((hf.2 e.sym e.count).1 List.mem_cons_self).2
  rw [List.eq_replicate_iff, hcount, List.count_eq_length.2 fun v hv => (hall v hv).symm]
  exact ⟨rfl, hall⟩

theorem codesOf_single (e : CtEntry) (he : e.code = []) (syms : List Sym) : codesOf [e] syms = [] := by
  refine List.flatMap_eq_nil_iff.2 fun v _ => ?_
  simp [codeOf, he]

/-- The walk over the packed codes of a text gives the text. -/
theorem walkStream_packBits {f : List FtEntry} {ns : List Node} {cap : Nat} {syms : List Sym} (hf : Tally f syms)
    (hlen : syms.length ≤ maxU32) (h : buildTree f = .ok ns) (hcap : (textOf syms).length ≤ cap) :
    walkStream f ns cap (codesOf (genCodes ns) syms).length (packBits (codesOf (genCodes ns) syms))
      = .ok (textOf syms, syms.length) := by
  match f with
  | [] => exact absurd rfl (buildTree_ok h).1
  | [e] =>
    have hreplicate := hf.eq_replicate hlen
    have hcount : e.count.toNat = syms.length := by rw [hreplicate, List.length_replicate]
    have hemit : emitRepeat cap e.sym e.count.toNat [] = .ok (textOf syms) := by
      rw [emitRepeat_of_fits (by rwa [← hreplicate, List.length_nil, Nat.zero_add]), ← hreplicate, List.nil_append]
    rw [genCodes_single h, codesOf_single _ rfl, walkStream, hemit, hcount]
    rfl
  | e :: e' :: f =>
    have hwalk := walkBits_codesOf h (Nat.le_add_left 2 f.length) hf.nodup (fun v hv => (hf.mem_map_sym hlen).2 hv) []
      (cap := cap) (k := 0) (nsym := 0) (out := []) (by rwa [List.length_nil, Nat.zero_add])
    rw [List.append_nil, walkBits, if_neg (not_not.2 rfl), Nat.zero_add, List.nil_append] at hwalk
    rw [walkStream, streamBits_packBits, hwalk]
    simp

end Sys2Proof.Machine
end

section
/-! PROOFS. The round trip: DECODE of an artifact that ENCODE wrote (45_encoder.md R661). -/

namespace Sys2Proof.Machine

/-! ### A text that counts is an encoded text -/

theorem eq_utf8_append_of_utf8At {bs : List Byte} {v : Sym} {n : Nat} (h : utf8At bs = some (v, n)) :
    ∃ rest, bs = utf8 v ++ rest :=
  ⟨bs.drop n, by rw [← (utf8At_take h).2, List.take_append_drop]⟩

/-- What is counted from the tally of the text so far is the encoding of supported symbols, and the outcome is the tally
of the whole. -/
theorem exists_syms_of_countLoop {m o total : Nat} {g : List FtEntry} {pre : List Sym} {text : List Byte}
    {r : List FtEntry × Nat} (hg : Tally g pre) (hlen : pre.length + text.length ≤ maxU32)
    (h : countLoop m (textSymbols 0 o text) g total = .ok r) :
    ∃ syms, text = textOf syms ∧ (∀ v ∈ syms, symOk v = true) ∧ Tally r.1 (pre ++ syms) := by
  induction hn : text.length using Nat.strong_induction_on generalizing text o total g pre with
  | _ n ih =>
    by_cases hnil : text = []
    · subst hnil
      obtain rfl := Except.ok.inj h
      exact ⟨[], rfl, nofun, by rwa [List.append_nil]⟩
    · cases hat : utf8At text with
      | none =>
        rw [textSymbols_of_illFormed hnil o hat] at h
        exact nomatch h
      | some p =>
        obtain ⟨v, len⟩ := p
        obtain ⟨hscalar, -⟩ := utf8At_value hat
        obtain ⟨rest, rfl⟩ := eq_utf8_append_of_utf8At hat
        have hpos := List.length_pos_of_ne_nil (utf8_ne_nil v)
        rw [List.length_append] at hn hlen
        rw [textSymbols_utf8_append hscalar] at h
        obtain ⟨_, hv, hne, -⟩ := countLoop_cons_ok h
        obtain rfl := Option.some.inj hv
        by_cases hroom : v ∉ pre → g.length ≠ m
        · obtain ⟨g', hg', hstep⟩ := countLoop_symbol (o := o) (total := total) hne hg (by omega) hroom
            (textSymbols 0 (o + (utf8 v).length) rest)
          obtain ⟨syms, rfl, hsyms, hr⟩ := ih rest.length (by omega) hg'
            (by rw [List.length_append, List.length_singleton]; omega) (hstep ▸ h) rfl
          refine ⟨v :: syms, rfl, List.forall_mem_cons.2 ⟨?_, hsyms⟩, by rwa [List.append_cons]⟩
          simpa [symOk, hscalar] using hne
        · obtain ⟨hnew, hfull⟩ := Classical.not_imp.1 hroom
          rw [countLoop_full _ _ _ hne hg hnew (not_not.1 hfull)] at h
          exact nomatch h

theorem exists_syms_of_countText {m total : Nat} {text : List Byte} {f : List FtEntry} (hlen : text.length ≤ maxU32)
    (h : countText m text = .ok (f, total)) :
    ∃ syms, text = textOf syms ∧ (∀ v ∈ syms, symOk v = true) ∧ Tally f syms :=
  exists_syms_of_countLoop Tally.nil (by rwa [List.length_nil, Nat.zero_add]) h

/-! ### Decoding an artifact -/

/-- The artifact of a text decodes to the text. -/
theorem decodeArtifact_artifact {m cap total : Nat} {text : List Byte} {f : List FtEntry} {ns : List Node}
    (hlen : text.length ≤ maxU32) (hcount : countText m text = .ok (f, total)) (htree : buildTree f = .ok ns)
    (hbits : bitLength f (genCodes ns) ≤ maxU32) (hcap : text.length ≤ cap) :
    ∃ nsym, decodeArtifact m cap (artifact f (genCodes ns) (bitLength f (genCodes ns)) text)
      = .ok ⟨f, ns, text, nsym⟩ := by
  obtain ⟨hrises, hentries, hm⟩ := (ftWf_iff m f).1 (countText_ftWf hcount)
  obtain ⟨syms, rfl, hsyms, hf⟩ := exists_syms_of_countText hlen hcount
  have hwalk := walkStream_packBits hf ((length_le_length_textOf syms).trans hlen) htree hcap
  rw [bitLength_eq_length_codesOf hsyms hcount htree] at hbits ⊢
  refine ⟨syms.length, ?_⟩
  rw [artifact, textBits_textSymbols_textOf _ hsyms, decodeArtifact_append
    (fun e he => by simpa [entryOk] using hentries e he) (.refl f) hrises hm htree hbits (length_le_packBits _), hwalk]
  rfl

theorem execDecode_of_decodeArtifact {s : State} {r : DecodeResult} (hrange : RangeOk .decode s)
    (h : decodeArtifact s.cfgMaxDistinct.toNat s.dstCap.toNat (sourceBytes s) = .ok r) :
    exec .decode s = .next (complete (resultWord r.bytes.length) (resultWord r.nsym)
      (memWrite s.dstAddr.toNat r.bytes { s with ft := some r.ft, nodes := some r.nodes, ct := none })) := by
  have hcommand : decodeCommand s = .ok r := h
  rw [exec, execDecode, (checkRegions_ok s).2 hrange]
  simp only [decodeChecked, hcommand]

/-- The bytes that were stored are read back in any state with the same BUF. -/
theorem memRead_of_memWrite {s t : State} {a : Nat} {bs : List Byte} (hbuf : t.buf = Memory.writeList s.buf a bs)
    (hpower : t.powerOn = s.powerOn) : memRead t a bs.length = bs :=
  (memRead_congr (memWrite a bs s) t a _ fun b _ _ => readByte_congr (s := memWrite a bs s) hbuf hpower b).trans
    (memRead_memWrite s a bs)

/-- The artifact ENCODE stored is what a state reads that has ENCODE's BUF, and its destination and result for source. -/
theorem sourceBytes_of_stored {s u : State} {bs : List Byte} (haddr : u.srcAddr = s.dstAddr)
    (hlen : u.srcLen.toNat = bs.length) (hbuf : u.buf = Memory.writeList s.buf s.dstAddr.toNat bs)
    (hpower : u.powerOn = s.powerOn) : sourceBytes u = bs := by
  rw [sourceBytes, haddr, hlen]
  exact memRead_of_memWrite hbuf hpower

/-- Settles O50: DECODE's source is the artifact, which `decodeArtifact_artifact` reads back. -/
theorem encodeDecodeRoundTrip : Obligations.EncodeDecodeRoundTrip := by
  unfold Obligations.EncodeDecodeRoundTrip
  intro s t u d c _ h ht hu hrange hcap
  obtain ⟨r, -, hr, rfl⟩ := execEncode_succeeded h ht
  obtain ⟨⟨total, hcount⟩, htree, hct, hbitlen, hbits, -, hsize, hbytes⟩ := encodeText_ok hr
  rw [hct] at hbitlen
  rw [hbitlen] at hbits
  have htext : (sourceBytes s).length = s.srcLen.toNat := memRead_length s _ _
  obtain ⟨nsym, hdecode⟩ := decodeArtifact_artifact (cap := c.toNat) (length_sourceBytes_le s) hcount htree hbits
    (htext.trans_le hcap)
  have hsource : sourceBytes u = r.bytes := by
    have hsrcLen : (resultWord r.size).toNat = r.bytes.length := by
      rw [toNat_resultWord hsize, encodeText_bytes_length hr]
    rw [hu]
    exact sourceBytes_of_stored (s := s) rfl hsrcLen rfl rfl
  rw [← hbitlen, ← hct, ← hbytes, ← hsource] at hdecode
  subst hu
  refine ⟨_, execDecode_of_decodeArtifact hrange hdecode, ht, ?_, ?_⟩
  · rw [complete_resultLen, htext]
    simp [resultWord]
  · rw [← htext]
    exact memRead_of_memWrite rfl rfl

end Sys2Proof.Machine
end

section
/-! PROOFS. PARSEFT and the errors of the metadata parser, for PARSEFT and for DECODE (46_decoder.md R700 to R704). -/

namespace Sys2Proof.Machine

/-! ### What PARSEFT and DECODE make of the parser's outcome -/

theorem execParseft_of_parseArtifact {s : State} {p : Nat} {f : List FtEntry} (hsrc : SrcOk s)
    (h : parseArtifact s.cfgMaxDistinct.toNat (sourceBytes s) = .ok (p, f)) :
    exec .parseft s = .next (complete (resultWord (p + 1)) (resultWord f.length)
      { s with ft := some f, nodes := none, ct := none }) := by
  have hcommand : parseCommand s = .ok (p, f) := by
    rw [parseCommand, (checkSrc_ok s).2 hsrc, h]
    rfl
  rw [exec, execParseft, hcommand]

theorem execParseft_failed {s : State} {e : Err} (hsrc : SrcOk s)
    (h : parseArtifact s.cfgMaxDistinct.toNat (sourceBytes s) = .error e) :
    ∃ t, exec .parseft s = .next t ∧ Failed t e.kind.code e.sub e.info := by
  have hcommand : parseCommand s = .error e := by
    rw [parseCommand, (checkSrc_ok s).2 hsrc, h]
    rfl
  exact ⟨_, by rw [exec, execParseft, hcommand], failed_raiseErr _ _ _⟩

theorem execDecode_failed {s : State} {e : Err} (hrange : RangeOk .decode s)
    (h : decodeArtifact s.cfgMaxDistinct.toNat s.dstCap.toNat (sourceBytes s) = .error e) :
    ∃ t, exec .decode s = .next t ∧ Failed t e.kind.code e.sub e.info := by
  have hcommand : decodeCommand s = .error e := h
  refine ⟨_, ?_, failed_raiseErr (targetsOf .decode) e (scribbleDest s)⟩
  rw [exec, execDecode, (checkRegions_ok s).2 hrange]
  simp only [decodeChecked, hcommand]

/-- Both commands complete with the error of the metadata parser. -/
theorem exec_failed_of_parseArtifact {i : Instr} {s : State} {e : Err} (hi : i = .parseft ∨ i = .decode)
    (hrange : RangeOk i s) (h : parseArtifact s.cfgMaxDistinct.toNat (sourceBytes s) = .error e) :
    ∃ t, exec i s = .next t ∧ Failed t e.kind.code e.sub e.info := by
  rcases hi with rfl | rfl
  · exact execParseft_failed hrange h
  · refine execDecode_failed hrange ?_
    rw [decodeArtifact, h]
    rfl

/-- Settles O36: the parser finds the sentinel behind the segment and leaves the sorted table. -/
theorem parseftReadsTable : Obligations.ParseftReadsTable := by
  unfold Obligations.ParseftReadsTable
  intro s f g rest hsrc hart hf hperm hg hm
  have hparse := parseArtifact_serialiseFt hf hperm hg hm rest
  rw [← hart] at hparse
  rw [execParseft_of_parseArtifact hsrc hparse, hperm.length_eq]
  rfl

/-! ### The sentinel scan (46_decoder.md R701) -/

theorem sentinelAt_eq_idxOf? (art : List Byte) : sentinelAt art = art.idxOf? 0#8 := by
  induction art with
  | nil => rfl
  | cons b art ih =>
    rw [sentinelAt, ih, List.idxOf?_cons]
    by_cases hb : b = 0#8
    · simp [hb]
    · cases List.idxOf? 0#8 art <;> simp [hb]

/-- The scan stops at the least offset of a zero byte. -/
theorem sentinelAt_eq_some_iff (art : List Byte) (k : Nat) :
    sentinelAt art = some k ↔ art[k]? = some 0#8 ∧ ∀ j < k, art[j]? ≠ some 0#8 := by
  rw [sentinelAt_eq_idxOf?, List.idxOf?_eq_some_iff]
  constructor
  · rintro ⟨hk, hzero, hbefore⟩
    refine ⟨List.getElem?_eq_some_iff.2 ⟨hk, hzero⟩, fun j hj hzero => ?_⟩
    exact hbefore j hj (List.getElem?_eq_some_iff.1 hzero).2
  · rintro ⟨hzero, hbefore⟩
    obtain ⟨hk, hzero⟩ := List.getElem?_eq_some_iff.1 hzero
    exact ⟨hk, hzero, fun j hj hj0 => hbefore j hj (List.getElem?_eq_some_iff.2 ⟨hj.trans hk, hj0⟩)⟩

theorem parseArtifact_of_no_zero {art : List Byte} (m : Nat) (h : 0#8 ∉ art) :
    parseArtifact m art = .error (err .malformedArtifact 1 art.length) := by
  rw [parseArtifact, sentinelScan, sentinelAt_eq_idxOf?, List.idxOf?_eq_none_iff.2 h]
  rfl

/-- Settles O37: the scan is the search for the first zero byte, and the source region has SRC_LEN bytes. -/
theorem sentinelScanFinds : Obligations.SentinelScanFinds := by
  unfold Obligations.SentinelScanFinds
  refine ⟨sentinelAt_eq_some_iff, fun i s hi hrange hzero => ?_⟩
  have hinfo : BitVec.ofNat 32 (sourceBytes s).length = s.srcLen := by
    rw [sourceBytes, memRead_length, BitVec.ofNat_toNat, BitVec.setWidth_eq]
  rw [← hinfo]
  exact exec_failed_of_parseArtifact hi hrange (parseArtifact_of_no_zero _ hzero)

/-! ### The checks of one entry, in their order (46_decoder.md R704) -/

theorem exists_ftLookup_of_mem {v : Sym} {f : List FtEntry} (h : v ∈ f.map (·.sym)) : ∃ c, ftLookup v f = some c := by
  obtain ⟨e, he, hsym⟩ := List.mem_map.1 h
  exact Option.ne_none_iff_exists'.1 fun hnone => ftLookup_eq_none hnone e he hsym

section
variable {m o : Nat} {g : List FtEntry} {bs : List Byte}

theorem parseEntry_of_illFormed (h : utf8At bs = none) : parseEntry m o g bs = .error (err .malformedArtifact 2 o) := by
  rw [parseEntry, h]

variable {v : Sym} {n : Nat} (hat : utf8At bs = some (v, n))
include hat

theorem parseEntry_of_present (h : v ∈ g.map (·.sym)) :
    parseEntry m o g bs = .error (err .malformedArtifact 3 o) := by
  obtain ⟨c, hc⟩ := exists_ftLookup_of_mem h
  simp only [parseEntry, hat, hc]

variable (hnew : v ∉ g.map (·.sym))
include hnew

theorem parseEntry_of_full (h : g.length = m) : parseEntry m o g bs = .error (err .capacityExceeded 0 o) := by
  simp only [parseEntry, hat, ftLookup_of_absent hnew, if_pos h]

variable (hroom : g.length ≠ m)
include hroom

theorem parseEntry_of_endless (h : readVarint (bs.drop n) = none) :
    parseEntry m o g bs = .error (err .malformedArtifact 4 (o + n)) := by
  simp only [parseEntry, hat, ftLookup_of_absent hnew, if_neg hroom, h]

theorem parseEntry_of_overflow {c k : Nat} (h : readVarint (bs.drop n) = some (c, k)) (hc : c > maxU32) :
    parseEntry m o g bs = .error (err .countOverflow 1 (o + n)) := by
  simp only [parseEntry, hat, ftLookup_of_absent hnew, if_neg hroom, h, if_pos hc]

end

/-! ### The first entry that fails (46_decoder.md R703) -/

theorem parseFt_of_parseEntry_error {m o : Nat} {g : List FtEntry} {bad : List Byte} {e : Err} (hbad : bad ≠ [])
    (h : parseEntry m o g bad = .error e) : parseFt m 0 o g bad = .error e := by
  obtain ⟨b, bs, rfl⟩ := List.exists_cons_of_ne_nil hbad
  rw [parseFt, h]

/-- Behind a serialised table the parser stops with the error of the next entry, which it meets with that table. -/
theorem parseArtifact_of_parseEntry_error {m : Nat} {f : List FtEntry} {bad : List Byte} {e : Err}
    (hf : ∀ e ∈ f, symOk e.sym = true ∧ e.count ≠ 0) (hnodup : (f.map (·.sym)).Nodup) (hm : f.length ≤ m)
    (hbad : bad ≠ []) (hzero : 0#8 ∉ bad)
    (h : ∀ g, g.Perm f → parseEntry m (serialiseFt f).length g bad = .error e) (rest : List Byte) :
    parseArtifact m (serialiseFt f ++ bad ++ 0#8 :: rest) = .error e := by
  obtain ⟨g, hg, -, hparse⟩ := parseFt_serialiseFt (m := m) (g := []) bad (o := 0)
    (fun e he => isScalar_of_symOk (hf e he).1) (by rwa [List.append_nil]) (by rwa [List.append_nil]) rfl
  rw [List.append_nil] at hg
  rw [Nat.zero_add, parseFt_of_parseEntry_error hbad (h g hg)] at hparse
  have hscan : sentinelScan (serialiseFt f ++ bad ++ 0#8 :: rest) = .ok (serialiseFt f ++ bad).length := by
    rw [sentinelScan, sentinelAt_append_zero (by simp [zero_not_mem_serialiseFt hf, hzero])]
  rw [parseArtifact, hscan]
  simp only [bind, Except.bind, List.take_left, hparse]

/-- Settles O38: the parser reaches the failing entry with the entries before it, and stops there. -/
theorem parserEntryErrors : Obligations.ParserEntryErrors := by
  unfold Obligations.ParserEntryErrors
  intro i s f bad rest hi hrange hart hf hnodup hm hbad hzero
  have hfails : ∀ e,
      (∀ g, g.Perm f → parseEntry s.cfgMaxDistinct.toNat (serialiseFt f).length g bad = .error e) →
      ∃ t, exec i s = .next t ∧ Failed t e.kind.code e.sub e.info := by
    intro e hentry
    refine exec_failed_of_parseArtifact hi hrange ?_
    rw [hart, parseArtifact_of_parseEntry_error hf hnodup hm hbad hzero hentry]
  have hmem : ∀ {g : List FtEntry} {v : Sym}, g.Perm f → (v ∈ g.map (·.sym) ↔ v ∈ f.map (·.sym)) :=
    fun hg => (hg.map _).mem_iff
  refine ⟨fun hat => ?_, fun v n hat hv => ?_, fun v n hat hv hfull => ?_, fun v n hat hv hroom hread => ?_,
    fun v n c k hat hv hroom hread hc => ?_⟩
  · exact hfails _ fun g _ => parseEntry_of_illFormed hat
  · exact hfails _ fun g hg => parseEntry_of_present hat ((hmem hg).2 hv)
  · exact hfails _ fun g hg => parseEntry_of_full hat (mt (hmem hg).1 hv) (hg.length_eq.trans hfull)
  · exact hfails _ fun g hg =>
      parseEntry_of_endless hat (mt (hmem hg).1 hv) (hg.length_eq.trans_ne hroom.ne) hread
  · exact hfails _ fun g hg =>
      parseEntry_of_overflow hat (mt (hmem hg).1 hv) (hg.length_eq.trans_ne hroom.ne) hread hc

end Sys2Proof.Machine
end

section
/-! PROOFS. DECODE of a well-formed artifact, and the errors of its header and of its walk (46_decoder.md R720 to R730). -/

namespace Sys2Proof.Machine

/-! ### The bit-length header (46_decoder.md R721, R722) -/

theorem readHeader_of_short {header : List Byte} (seg : List Byte) (h : header.length < 4) :
    readHeader seg.length (seg ++ 0#8 :: header) = .error (err .malformedArtifact 5 (seg.length + 1)) := by
  refine if_pos ?_
  rw [List.length_append, List.length_cons]
  omega

theorem readHeader_of_long {header packed : List Byte} (seg : List Byte) (hheader : header.length = 4)
    (hbits : beValue header > 8 * packed.length) :
    readHeader seg.length (seg ++ 0#8 :: (header ++ packed))
      = .error (err .malformedArtifact 6 (seg.length + 5)) := by
  have hbehind : (seg ++ 0#8 :: (header ++ packed)).drop (seg.length + 1) = header ++ packed := by
    rw [List.append_cons]
    exact List.drop_left' (by simp)
  have hlen : (seg ++ 0#8 :: (header ++ packed)).length = seg.length + 5 + packed.length := by
    simp [hheader]
    omega
  have henough : ¬ seg.length + 5 > seg.length + 5 + packed.length := by omega
  have hlong : beValue header > 8 * (seg.length + 5 + packed.length - seg.length - 5) := by omega
  rw [readHeader, hlen, if_neg henough, hbehind, List.take_left' hheader]
  exact if_pos hlong

theorem beValue_four (a b c d : Byte) :
    beValue [a, b, c, d] = a.toNat * 2 ^ 24 + b.toNat * 2 ^ 16 + c.toNat * 2 ^ 8 + d.toNat := by
  simp [beValue, Nat.add_assoc]

/-- The entries of distinct symbols can be sorted into a table. -/
theorem exists_perm_ftRises {f : List FtEntry} (hnodup : (f.map (·.sym)).Nodup) :
    ∃ g : List FtEntry, g.Perm f ∧ ftRises g = true := by
  induction f with
  | nil => exact ⟨[], .refl _, rfl⟩
  | cons e f ih =>
    rw [List.map_cons, List.nodup_cons] at hnodup
    obtain ⟨hnew, hnodup⟩ := hnodup
    obtain ⟨g, hg, hrises⟩ := ih hnodup
    have habsent : ∀ x ∈ g, x.sym ≠ e.sym := fun x hx heq => hnew (List.mem_map.2 ⟨x, hg.subset hx, heq⟩)
    exact ⟨ftSet e.sym e.count g, (ftSet_perm_of_absent e.count habsent).trans (hg.cons e), ftRises_ftSet _ _ hrises⟩

/-- Settles O54: behind the segment come the header's two checks, and then the tree, which an empty table does not have. -/
theorem decodeHeaderErrors : Obligations.DecodeHeaderErrors := by
  unfold Obligations.DecodeHeaderErrors
  refine ⟨beValue_four, fun s f header packed hrange hart hf hnodup hm => ?_⟩
  obtain ⟨g, hperm, hg⟩ := exists_perm_ftRises hnodup
  have hparse := parseArtifact_serialiseFt hf hperm hg hm (header ++ packed)
  rw [List.append_assoc, List.append_assoc, List.singleton_append] at hart
  rw [← hart] at hparse
  have hfails : ∀ e, readHeader (serialiseFt f).length (serialiseFt f ++ 0#8 :: (header ++ packed)) = .error e →
      ∃ t, exec .decode s = .next t ∧ Failed t e.kind.code e.sub e.info := by
    intro e hheader
    rw [← hart] at hheader
    refine execDecode_failed hrange ?_
    simp only [decodeArtifact, hparse, hheader, bind, Except.bind]
  refine ⟨fun hshort hnil => ?_, fun hfour hlong => ?_, fun hfour hfits hempty => ?_⟩
  · subst hnil
    rw [List.append_nil] at hfails
    exact hfails _ (readHeader_of_short _ hshort)
  · exact hfails _ (readHeader_of_long _ hfour hlong)
  · have hheader := readHeader_append (serialiseFt f) hfour hfits
    rw [← hart] at hheader
    obtain rfl : g = [] := by rwa [hempty, List.perm_nil] at hperm
    refine execDecode_failed (e := err .emptyInput 0 0) hrange ?_
    simp only [decodeArtifact, hparse, hheader, bind, Except.bind]
    rfl

/-! ### DECODE by the outcome of its walk -/

section
variable {s : State} {f g : List FtEntry} {ns : List Node} {bitlen : Nat} {packed : List Byte}
  (hrange : RangeOk .decode s)
  (hart : sourceBytes s = serialiseFt f ++ [0#8] ++ be32 (BitVec.ofNat 32 bitlen) ++ packed)
  (hbitlen : bitlen ≤ maxU32) (hf : ∀ e ∈ f, symOk e.sym = true ∧ e.count ≠ 0) (hperm : g.Perm f)
  (hg : ftRises g = true) (hm : f.length ≤ s.cfgMaxDistinct.toNat) (htree : buildTree g = .ok ns)
  (hpacked : bitlen ≤ 8 * packed.length)
include hrange hart hbitlen hf hperm hg hm htree hpacked

theorem execDecode_of_walkStream {out : List Byte} {nsym : Nat}
    (h : walkStream g ns s.dstCap.toNat bitlen packed = .ok (out, nsym)) :
    exec .decode s = .next (complete (resultWord out.length) (resultWord nsym)
      (memWrite s.dstAddr.toNat out { s with ft := some g, nodes := some ns, ct := none })) := by
  refine execDecode_of_decodeArtifact (r := ⟨g, ns, out, nsym⟩) hrange ?_
  rw [hart, decodeArtifact_append hf hperm hg hm htree hbitlen hpacked, h]
  rfl

theorem execDecode_of_walkStream_error {e : Err} (h : walkStream g ns s.dstCap.toNat bitlen packed = .error e) :
    ∃ t, exec .decode s = .next t ∧ Failed t e.kind.code e.sub e.info := by
  refine execDecode_failed hrange ?_
  rw [hart, decodeArtifact_append hf hperm hg hm htree hbitlen hpacked, h]
  rfl

end

/-! ### A symbol that does not fit (46_decoder.md R728) -/

theorem emit_of_overflow {cap : Nat} {v : Sym} {out : List Byte} (h : cap < out.length + (utf8 v).length) :
    emit cap v out = .error (err .outputOverflow 0 (min (out.length + (utf8 v).length) maxU32)) := if_pos h

/-- Of too many copies of a symbol the first that does not fit is the one after as many as fill the region. -/
theorem emitRepeat_of_overflow {cap count k : Nat} {v : Sym} {out : List Byte} (hout : out.length = k * utf8len v)
    (hfits : k * utf8len v ≤ cap) (hover : cap < (k + count) * utf8len v) :
    emitRepeat cap v count out = .error (err .outputOverflow 0 (min ((cap / utf8len v + 1) * utf8len v) maxU32)) := by
  induction count generalizing k out with
  | zero => exact absurd hfits (Nat.not_le.2 hover)
  | succ count ih =>
    have hnext : out.length + (utf8 v).length = (k + 1) * utf8len v := by rw [hout, utf8_length, Nat.succ_mul]
    rcases Nat.lt_or_ge cap ((k + 1) * utf8len v) with hlast | hfits'
    · rw [emitRepeat, emit_of_overflow (hnext ▸ hlast), hnext, Nat.div_eq_of_lt_le hfits hlast]
    · rw [emitRepeat, emit_of_fits (hnext ▸ hfits')]
      exact ih (by rw [List.length_append, hnext]) hfits' (by rwa [Nat.add_assoc, Nat.add_comm 1])

/-! ### The single-leaf tree (46_decoder.md R725) -/

theorem length_textOf_replicate (n : Nat) (v : Sym) : (textOf (List.replicate n v)).length = n * utf8len v := by
  simp [textOf, List.length_flatMap, utf8_length]

theorem walkStream_single_of_bits {bitlen : Nat} (e : FtEntry) (ns : List Node) (cap : Nat) (packed : List Byte)
    (h : bitlen > 0) : walkStream [e] ns cap bitlen packed = .error (err .corruptStream 1 0) := if_pos h

theorem walkStream_single_of_no_bits (e : FtEntry) (ns : List Node) (cap : Nat) (packed : List Byte) :
    walkStream [e] ns cap 0 packed
      = (emitRepeat cap e.sym e.count.toNat []).map fun out => (out, e.count.toNat) := by
  rw [walkStream, if_neg (Nat.lt_irrefl 0)]
  cases emitRepeat cap e.sym e.count.toNat [] <;> rfl

/-- Settles O52: the walk of the single leaf reads no stream bit and repeats its symbol. -/
theorem decodeSingleLeaf : Obligations.DecodeSingleLeaf := by
  unfold Obligations.DecodeSingleLeaf
  intro s e bitlen packed hrange hart hbitlen hsym hcount hm hpacked
  have hf : ∀ x ∈ [e], symOk x.sym = true ∧ x.count ≠ 0 := List.forall_mem_singleton.2 ⟨hsym, hcount⟩
  have htree : buildTree [e] = .ok [.leaf (e.count.setWidth 64) e.sym] := rfl
  have hlen := length_textOf_replicate e.count.toNat e.sym
  refine ⟨fun hbits => ?_, ?_, ?_⟩
  · exact execDecode_of_walkStream_error hrange hart hbitlen hf (.refl _) rfl hm htree hpacked
      (walkStream_single_of_bits e _ _ packed hbits)
  · rintro rfl hfits
    have hwalk := walkStream_single_of_no_bits e [.leaf (e.count.setWidth 64) e.sym] s.dstCap.toNat packed
    rw [emitRepeat_of_fits (by rwa [List.length_nil, Nat.zero_add, hlen])] at hwalk
    rw [execDecode_of_walkStream hrange hart hbitlen hf (.refl _) rfl hm htree hpacked hwalk, List.nil_append, hlen,
      resultWord, resultWord, BitVec.ofNat_toNat, BitVec.setWidth_eq]
    rfl
  · rintro rfl hover
    have hwalk := walkStream_single_of_no_bits e [.leaf (e.count.setWidth 64) e.sym] s.dstCap.toNat packed
    rw [emitRepeat_of_overflow (k := 0) (by simp) (by simp) (by rwa [Nat.zero_add])] at hwalk
    exact execDecode_of_walkStream_error hrange hart hbitlen hf (.refl _) rfl hm htree hpacked hwalk

/-! ### The walk of two or more leaves (46_decoder.md R724, R726) -/

theorem walkStream_of_two_le {f : List FtEntry} (hf : 2 ≤ f.length) (ns : List Node) (cap bitlen : Nat)
    (packed : List Byte) :
    walkStream f ns cap bitlen packed
      = walkBits ns (rootOf ns) cap (streamBits bitlen packed) 0 (rootOf ns) 0 [] 0 := by
  match f, hf with
  | _ :: _ :: _, _ => rfl

theorem walkBits_nil_root (nodes : List Node) (root cap i start nsym : Nat) (out : List Byte) :
    walkBits nodes root cap [] i root start out nsym = .ok (out, nsym) := if_neg (not_not.2 rfl)

/-- The walk over whole codes emits their symbols and goes on with what follows them. -/
theorem walkStream_codesOf_append {f : List FtEntry} {ns : List Node} {cap bitlen : Nat} {packed : List Byte}
    {syms : List Sym} {tail : Bits} (htree : buildTree f = .ok ns) (hf : 2 ≤ f.length)
    (hnodup : (f.map (·.sym)).Nodup) (hsyms : ∀ v ∈ syms, v ∈ f.map (·.sym))
    (hstream : streamBits bitlen packed = codesOf (genCodes ns) syms ++ tail) (hcap : (textOf syms).length ≤ cap) :
    walkStream f ns cap bitlen packed
      = walkBits ns (rootOf ns) cap tail (codesOf (genCodes ns) syms).length (rootOf ns)
          (codesOf (genCodes ns) syms).length (textOf syms) syms.length := by
  have hwalk := walkBits_codesOf htree hf hnodup hsyms tail (cap := cap) (k := 0) (nsym := 0) (out := [])
    (by rwa [List.length_nil, Nat.zero_add])
  rw [walkStream_of_two_le hf, hstream, hwalk, Nat.zero_add, Nat.zero_add, List.nil_append]

/-- Settles O51: the stream is whole codes, after which the cursor stands at the root. -/
theorem decodeWritesText : Obligations.DecodeWritesText := by
  unfold Obligations.DecodeWritesText
  intro s f g ns syms bitlen packed hrange hart hbitlen hf hperm hg htwo hm htree hpacked hsyms hstream hcap
  have hwalk := walkStream_codesOf_append (tail := []) htree (hperm.length_eq ▸ htwo) (nodup_of_ftRises hg) hsyms
    (by rwa [List.append_nil]) hcap
  rw [walkBits_nil_root] at hwalk
  rw [execDecode_of_walkStream hrange hart hbitlen hf hperm hg hm htree hpacked hwalk]
  rfl

/-! ### The errors of the walk (46_decoder.md R726, R728) -/

/-- The root is no node's child. -/
theorem rootOf_not_mem_children {f : List FtEntry} {ns : List Node} (h : buildTree f = .ok ns) :
    rootOf ns ∉ ns.flatMap childrenOf := by
  have hnodup := (buildTree_children_perm h).nodup_iff.2 List.nodup_range
  exact fun hmem => List.disjoint_of_nodup_append hnodup hmem (List.mem_singleton_self _)

/-- A stream that ends on the way to a leaf ends away from the root. -/
theorem walkBits_of_incomplete {nodes : List Node} {root cap i x k : Nat} {q r : Bits}
    (hroot : root ∉ nodes.flatMap childrenOf) (hr : r ≠ []) (hpath : followBits nodes x (q ++ r) = some i)
    (hx : q = [] → x ≠ root) (start nsym : Nat) (out : List Byte) :
    walkBits nodes root cap q k x start out nsym = .error (err .corruptStream 2 start) := by
  induction q generalizing x k with
  | nil => exact if_pos (hx rfl)
  | cons b q ih =>
    rw [List.cons_append] at hpath
    obtain ⟨w, l, r', j, hnode, hrest⟩ := followBits_cons hpath
    have hchild : (if b then r' else l) ∈ childrenOf (.internal w l r' j) := by cases b <;> simp [childrenOf]
    have haway : (if b then r' else l) ≠ root := fun heq =>
      hroot (List.mem_flatMap.2 ⟨_, List.mem_of_getElem? hnode, heq ▸ hchild⟩)
    obtain ⟨b', q', hmore⟩ := List.exists_cons_of_ne_nil (List.append_ne_nil_of_right_ne_nil q hr)
    obtain ⟨w', l', r'', j', hy, -⟩ := followBits_cons (hmore ▸ hrest)
    simp only [walkBits, hnode, hy]
    exact ih hrest fun _ => haway

/-- Settles O53: after whole codes the walk meets either a beginning of a code, or a code whose symbol does not fit. -/
theorem decodeWalkErrors : Obligations.DecodeWalkErrors := by
  unfold Obligations.DecodeWalkErrors
  intro s f g ns syms tail bitlen packed hrange hart hbitlen hf hperm hg htwo hm htree hpacked hsyms hstream hcap
  have hlen : 2 ≤ g.length := hperm.length_eq ▸ htwo
  have hnodup := nodup_of_ftRises hg
  have hfails : ∀ e,
      walkBits ns (rootOf ns) s.dstCap.toNat tail (codesOf (genCodes ns) syms).length (rootOf ns)
        (codesOf (genCodes ns) syms).length (textOf syms) syms.length = .error e →
      ∃ t, exec .decode s = .next t ∧ Failed t e.kind.code e.sub e.info := by
    intro e hwalk
    rw [← walkStream_codesOf_append htree hlen hnodup hsyms hstream hcap] at hwalk
    exact execDecode_of_walkStream_error hrange hart hbitlen hf hperm hg hm htree hpacked hwalk
  constructor
  · rintro htail ⟨x, hx, ⟨r, hr⟩, hne⟩
    obtain ⟨i, hi⟩ := List.mem_iff_getElem?.1 hx
    have hpath := (followBits_of_getElem?_genCodes htree hi).2
    rw [← hr] at hpath
    have hrest : r ≠ [] := by
      rintro rfl
      exact hne (by rwa [List.append_nil] at hr)
    exact hfails _ (walkBits_of_incomplete (rootOf_not_mem_children htree) hrest hpath (absurd · htail) _ _ _)
  · rintro x hx ⟨r, rfl⟩ hover
    have hv : x.sym ∈ g.map (·.sym) := genCodes_syms htree ▸ List.mem_map_of_mem (f := (·.sym)) hx
    have hcode := codeOf_of_mem (genCodes_syms htree ▸ hnodup) hx
    refine hfails (err .outputOverflow 0 _) ?_
    rw [← hcode, walkBits_codeOf htree hlen hnodup _ hv, emit_of_overflow hover]
    rfl

end Sys2Proof.Machine
end

section
/-! PROOFS. The exceptions: what every failure loses, the range checks, SEQUENCE_ERROR, and the interrupt output
(60_exceptions.md). -/

namespace Sys2Proof.Machine

/-! ### What a failure loses (60_exceptions.md R823) -/

/-- A command that starts with a clear report and leaves an error loses its target tables and keeps the others. -/
theorem exec_failed_tables {i : Instr} {s t : State} (h0 : s.errCode = 0) (ht : t.errCode ≠ 0)
    (h : exec i s = .next t) :
    t.ft = (if (targetsOf i).ft then none else s.ft) ∧ t.nodes = (if (targetsOf i).nodes then none else s.nodes)
      ∧ t.ct = (if (targetsOf i).ct then none else s.ct) := by
  obtain ⟨e, u, rfl | rfl, rfl⟩ | ⟨len, aux, f, ns, c, m, rfl⟩ := exec_cases h
  · exact ⟨rfl, rfl, rfl⟩
  · exact ⟨rfl, rfl, rfl⟩
  · exact absurd h0 ht

/-- Settles O24: NOP and CLEAR are successful completions, an illegal word has no target table, and the other rows are the
rows of `targetsOf`. -/
theorem failureInvalidatesTargets : Obligations.FailureInvalidatesTargets := by
  unfold Obligations.FailureInvalidatesTargets
  intro s t h0 ht
  refine ⟨⟨fun h => ?_, fun h => ?_⟩, fun e he h => ?_, fun i hi h => ?_, fun h => ?_, fun h => ?_⟩
  · obtain rfl := Host.Outcome.next.inj h
    exact ht h0
  · obtain rfl := Host.Outcome.next.inj h
    exact ht h0
  · obtain rfl := Host.Outcome.next.inj ((coreStep_of_error he).symm.trans h)
    exact ⟨rfl, rfl, rfl⟩
  · have htables := exec_failed_tables h0 ht h
    fin_cases hi <;> exact htables
  · obtain ⟨hft, hnodes, hct⟩ := exec_failed_tables h0 ht h
    exact ⟨hnodes, hct, hft⟩
  · obtain ⟨hft, hnodes, hct⟩ := exec_failed_tables h0 ht h
    exact ⟨hct, hft, hnodes⟩

/-! ### A range check that fails (60_exceptions.md R812) -/

theorem checkSrc_of_not {s : State} (h : ¬ SrcOk s) : checkSrc s = .error (err .bufferRange 1 0) :=
  if_pos (Nat.not_le.1 h)

theorem checkRegions_of_not_srcOk {s : State} (h : ¬ SrcOk s) : checkRegions s = .error (err .bufferRange 1 0) := by
  rw [checkRegions, checkSrc_of_not h]
  rfl

theorem checkRegions_of_not_dstOk {s : State} (hsrc : SrcOk s) (h : ¬ DstOk s) :
    checkRegions s = .error (err .bufferRange 2 0) := by
  have hcheck : checkDst s = .error (err .bufferRange 2 0) := if_pos (Nat.not_le.1 h)
  rw [checkRegions, (checkSrc_ok s).2 hsrc, hcheck]
  rfl

/-- The condition of the overlap check is the negation of `RegionsApart`. -/
theorem checkRegions_of_overlap {s : State} (hsrc : SrcOk s) (hdst : DstOk s)
    (h : s.srcLen.toNat > 0 ∧ s.dstCap.toNat > 0 ∧ s.srcAddr.toNat < s.dstAddr.toNat + s.dstCap.toNat
      ∧ s.dstAddr.toNat < s.srcAddr.toNat + s.srcLen.toNat) :
    checkRegions s = .error (err .bufferRange 3 0) := by
  have hcheck : checkOverlap s = .error (err .bufferRange 3 0) := if_pos h
  rw [checkRegions, (checkSrc_ok s).2 hsrc, (checkDst_ok s).2 hdst, hcheck]
  rfl

/-- ENCODE and DECODE complete with the error of their range checks. -/
theorem exec_of_checkRegions_error {i : Instr} {s : State} {e : Err} (hi : i ∈ [Instr.encode, .decode])
    (h : checkRegions s = .error e) : exec i s = .next (raiseErr (targetsOf i) e s) := by
  fin_cases hi
  · have hcommand : encodeCommand s = .error e := by
      rw [encodeCommand, h]
      rfl
    rw [exec, execEncode, hcommand]
  · rw [exec, execDecode, h]

/-- A source region outside BUF ends each command that has one. -/
theorem exec_of_not_srcOk {i : Instr} {s : State} (hi : i ∈ [Instr.count, .parseft, .encode, .decode])
    (h : ¬ SrcOk s) : exec i s = .next (raiseErr (targetsOf i) (err .bufferRange 1 0) s) := by
  have hregions := checkRegions_of_not_srcOk h
  fin_cases hi
  · have hcommand : countCommand s = .error (err .bufferRange 1 0) := by
      rw [countCommand, checkSrc_of_not h]
      rfl
    rw [exec, execCount, hcommand]
  · have hcommand : parseCommand s = .error (err .bufferRange 1 0) := by
      rw [parseCommand, checkSrc_of_not h]
      rfl
    rw [exec, execParseft, hcommand]
  · exact exec_of_checkRegions_error (by simp) hregions
  · exact exec_of_checkRegions_error (by simp) hregions

/-! ### Only a range check reports BUFFER_RANGE (60_exceptions.md R812) -/

/-- The computation raises no BUFFER_RANGE. -/
def NoRangeError {α : Type} (x : Except Err α) : Prop := ∀ e, x = .error e → e.kind ≠ .bufferRange

theorem noRangeError_ok {α : Type} (a : α) : NoRangeError (.ok a) := nofun

theorem noRangeError_err {α : Type} {k : ErrKind} (sub info : Nat) (hk : k ≠ .bufferRange) :
    NoRangeError (.error (err k sub info) : Except Err α) := by
  rintro _ ⟨⟩
  exact hk

/-- An error handed on as that of a computation of another type. -/
theorem NoRangeError.handOn {α β : Type} {x : Except Err α} {e : Err} (hx : NoRangeError x) (h : x = .error e) :
    NoRangeError (.error e : Except Err β) := by
  rintro _ ⟨⟩
  exact hx e h

/-- A sequence of two parts neither of which raises it. -/
theorem NoRangeError.bind {α β : Type} {x : Except Err α} {g : α → Except Err β} (hx : NoRangeError x)
    (hg : ∀ a, NoRangeError (g a)) : NoRangeError (x >>= g) := by
  intro e h
  obtain h | ⟨a, -, h⟩ := bind_error h
  · exact hx e h
  · exact hg a e h

theorem countLoop_noRangeError (m : Nat) (syms : List (Nat × Option Sym)) (f : List FtEntry) (total : Nat) :
    NoRangeError (countLoop m syms f total) := by
  induction syms generalizing f total with
  | nil => exact noRangeError_ok _
  | cons x syms ih =>
    obtain ⟨o, _ | v⟩ := x
    · exact noRangeError_err 1 o nofun
    · unfold countLoop
      split
      · exact noRangeError_err 2 o nofun
      · split
        · split
          · exact noRangeError_err 0 o nofun
          · exact ih _ _
        · split
          · exact noRangeError_err 2 o nofun
          · exact ih _ _

theorem countText_noRangeError (m : Nat) (text : List Byte) : NoRangeError (countText m text) :=
  countLoop_noRangeError m _ _ _

theorem buildTree_noRangeError (f : List FtEntry) : NoRangeError (buildTree f) := by
  intro e h
  rw [buildTree_error h]
  exact nofun

theorem buildCommand_noRangeError (s : State) : NoRangeError (buildCommand s) := by
  unfold buildCommand
  split
  · exact noRangeError_err 1 0 nofun
  · split
    · exact (buildTree_noRangeError _).handOn ‹_›
    · exact noRangeError_ok _

theorem encodeText_noRangeError (m cap : Nat) (text : List Byte) : NoRangeError (encodeText m cap text) := by
  intro e h
  obtain hcount | rfl | rfl | ⟨size, rfl⟩ := encodeText_error h
  · exact countText_noRangeError m text e hcount
  all_goals exact nofun

theorem sentinelScan_noRangeError (art : List Byte) : NoRangeError (sentinelScan art) := by
  unfold sentinelScan
  split
  · exact noRangeError_ok _
  · exact noRangeError_err 1 _ nofun

theorem parseEntry_noRangeError (m o : Nat) (f : List FtEntry) (bs : List Byte) :
    NoRangeError (parseEntry m o f bs) := by
  unfold parseEntry
  split
  · exact noRangeError_err 2 o nofun
  · split
    · exact noRangeError_err 3 o nofun
    · split
      · exact noRangeError_err 0 o nofun
      · split
        · exact noRangeError_err 4 _ nofun
        · split
          · exact noRangeError_err 1 _ nofun
          · exact noRangeError_ok _

theorem parseFt_noRangeError (m skip o : Nat) (f : List FtEntry) (bs : List Byte) :
    NoRangeError (parseFt m skip o f bs) := by
  induction skip, o, f, bs using parseFt.induct m with
  | case1 skip o f =>
    rw [parseFt]
    exact noRangeError_ok _
  | case2 skip o f b bs ih => exact ih
  | case3 o f b bs e hentry =>
    rw [parseFt, hentry]
    exact (parseEntry_noRangeError m o f (b :: bs)).handOn hentry
  | case4 o f b bs v c n hentry ih =>
    rw [parseFt, hentry]
    exact ih

theorem parseArtifact_noRangeError (m : Nat) (art : List Byte) : NoRangeError (parseArtifact m art) :=
  (sentinelScan_noRangeError art).bind fun _ => (parseFt_noRangeError m 0 0 [] _).bind fun _ => noRangeError_ok _

theorem readHeader_noRangeError (p : Nat) (art : List Byte) : NoRangeError (readHeader p art) := by
  unfold readHeader
  split
  · exact noRangeError_err 5 _ nofun
  · dsimp only
    split
    · exact noRangeError_err 6 _ nofun
    · exact noRangeError_ok _

theorem emit_noRangeError (cap : Nat) (v : Sym) (out : List Byte) : NoRangeError (emit cap v out) := by
  unfold emit
  split
  · exact noRangeError_err 0 _ nofun
  · exact noRangeError_ok _

theorem emitRepeat_noRangeError (cap : Nat) (v : Sym) (count : Nat) (out : List Byte) :
    NoRangeError (emitRepeat cap v count out) := by
  induction count generalizing out with
  | zero => exact noRangeError_ok _
  | succ count ih =>
    unfold emitRepeat
    split
    · exact (emit_noRangeError cap v out).handOn ‹_›
    · exact ih _

theorem walkBits_noRangeError (nodes : List Node) (root cap : Nat) (bits : Bits) (i x start : Nat) (out : List Byte)
    (nsym : Nat) : NoRangeError (walkBits nodes root cap bits i x start out nsym) := by
  induction bits generalizing i x start out nsym with
  | nil =>
    unfold walkBits
    split
    · exact noRangeError_err 2 start nofun
    · exact noRangeError_ok _
  | cons b bits ih =>
    simp only [walkBits]
    split
    · split
      · split
        · exact (emit_noRangeError cap _ out).handOn ‹_›
        · exact ih _ _ _ _ _
      · exact ih _ _ _ _ _
    · exact noRangeError_err 2 start nofun

theorem walkStream_noRangeError (f : List FtEntry) (nodes : List Node) (cap bitlen : Nat) (packed : List Byte) :
    NoRangeError (walkStream f nodes cap bitlen packed) := by
  unfold walkStream
  split
  · split
    · exact noRangeError_err 1 0 nofun
    · split
      · exact (emitRepeat_noRangeError cap _ _ _).handOn ‹_›
      · exact noRangeError_ok _
  · exact walkBits_noRangeError nodes _ cap _ _ _ _ _ _

theorem decodeCommand_noRangeError (s : State) : NoRangeError (decodeCommand s) :=
  (parseArtifact_noRangeError _ _).bind fun _ => (readHeader_noRangeError _ _).bind fun _ =>
    (buildTree_noRangeError _).bind fun _ => (walkStream_noRangeError _ _ _ _ _).bind fun _ => noRangeError_ok _

theorem countCommand_noRangeError {s : State} (h : SrcOk s) : NoRangeError (countCommand s) := by
  rw [countCommand, (checkSrc_ok s).2 h]
  exact countText_noRangeError _ _

theorem parseCommand_noRangeError {s : State} (h : SrcOk s) : NoRangeError (parseCommand s) := by
  rw [parseCommand, (checkSrc_ok s).2 h]
  exact parseArtifact_noRangeError _ _

theorem encodeCommand_noRangeError {s : State} (h : RangeOk .encode s) : NoRangeError (encodeCommand s) := by
  rw [encodeCommand_of_rangeOk h]
  exact encodeText_noRangeError _ _ _

theorem ErrKind.code_ne_seven {k : ErrKind} (h : k ≠ .bufferRange) : k.code ≠ 7 := by
  revert h
  cases k <;> decide

/-- The code of an error such a computation raises. -/
theorem NoRangeError.code_ne_seven {α : Type} {x : Except Err α} {e : Err} (hx : NoRangeError x)
    (h : x = .error e) : e.kind.code ≠ 7 :=
  ErrKind.code_ne_seven (hx e h)

/-- A command whose range checks pass reports no BUFFER_RANGE, for what it computes after them raises none. -/
theorem exec_errCode_ne_seven {i : Instr} {s t : State} (h0 : s.errCode ≠ 7) (hrange : RangeOk i s)
    (h : exec i s = .next t) : t.errCode ≠ 7 := by
  cases i with
  | nop => exact Host.Outcome.next.inj h ▸ h0
  | clear => exact Host.Outcome.next.inj h ▸ h0
  | count =>
    obtain ⟨e, he, rfl⟩ | ⟨f, total, -, rfl⟩ := execCount_cases h
    · exact (countCommand_noRangeError hrange).code_ne_seven he
    · exact h0
  | parseft =>
    obtain ⟨e, he, rfl⟩ | ⟨p, f, -, rfl⟩ := execParseft_cases h
    · exact (parseCommand_noRangeError hrange).code_ne_seven he
    · exact h0
  | build =>
    obtain ⟨e, he, rfl⟩ | ⟨f, ns, -, -, rfl⟩ := execBuild_cases h
    · exact (buildCommand_noRangeError s).code_ne_seven he
    · exact h0
  | gencode =>
    obtain ⟨-, rfl⟩ | ⟨ns, -, rfl⟩ := execGencode_cases h
    · exact ErrKind.code_ne_seven (k := .sequenceError) nofun
    · exact h0
  | encode =>
    obtain ⟨e, he, rfl⟩ | ⟨r, -, rfl⟩ := execEncode_cases h
    · exact (encodeCommand_noRangeError hrange).code_ne_seven he
    · exact h0
  | decode =>
    obtain ⟨e, he, -⟩ | ⟨e, -, he, rfl⟩ | ⟨r, -, -, rfl⟩ := execDecode_cases h
    · exact nomatch he.symm.trans ((checkRegions_ok s).2 hrange)
    · exact (decodeCommand_noRangeError s).code_ne_seven he
    · exact h0

/-- Settles O28: the first check that fails ends the command over BUF as it was, and no later part raises BUFFER_RANGE. -/
theorem rangeChecksFail : Obligations.RangeChecksFail := by
  unfold Obligations.RangeChecksFail
  intro s h0
  refine ⟨fun i hi hsrc => ?_, fun i hi hsrc hdst => ?_, fun i hi hsrc hdst hlen hcap hbelow habove => ?_,
    fun i t => exec_errCode_ne_seven (by simp [h0])⟩
  · exact ⟨_, exec_of_not_srcOk hi (Nat.not_le.2 hsrc), failed_raiseErr _ _ s, rfl⟩
  · exact ⟨_, exec_of_checkRegions_error hi (checkRegions_of_not_dstOk hsrc (Nat.not_le.2 hdst)),
      failed_raiseErr _ _ s, rfl⟩
  · exact ⟨_, exec_of_checkRegions_error hi (checkRegions_of_overlap hsrc hdst ⟨hlen, hcap, hbelow, habove⟩),
      failed_raiseErr _ _ s, rfl⟩

/-! ### A command whose input table is absent or empty (60_exceptions.md R810; 43_tree_builder.md R564) -/

theorem buildCommand_of_absent {s : State} (h : s.ft = none) : buildCommand s = .error (err .sequenceError 1 0) := by
  rw [buildCommand, h]

theorem buildCommand_of_empty {s : State} (h : s.ft = some []) : buildCommand s = .error (err .emptyInput 0 0) := by
  rw [buildCommand, h]
  rfl

theorem execBuild_of_buildCommand_error {s : State} {e : Err} (h : buildCommand s = .error e) :
    exec .build s = .next (raiseErr (targetsOf .build) e s) := by
  rw [exec, execBuild, h]

theorem execGencode_of_absent {s : State} (h : s.nodes = none) :
    exec .gencode s = .next (raiseErr (targetsOf .gencode) (err .sequenceError 2 0) s) := by
  rw [exec, execGencode, h]

/-- Settles O39: each next state is the error completion written out. -/
theorem sequenceErrors : Obligations.SequenceErrors := by
  unfold Obligations.SequenceErrors
  intro s
  refine ⟨fun h => ?_, fun h => ?_, fun h => ?_⟩
  · rw [execBuild_of_buildCommand_error (buildCommand_of_absent h)]
    rfl
  · rw [execGencode_of_absent h]
    rfl
  · rw [execBuild_of_buildCommand_error (buildCommand_of_empty h)]
    rfl

/-! ### The interrupt output (60_exceptions.md R830, R831) -/

theorem irq_eq_false_of_done {s : State} (h : s.done = false) : irq s = false := by
  rw [irq, h, Bool.and_false]

/-- The core's step is a completion: it sets DONE and leaves IRQ_EN. -/
theorem coreStep_done {s t : State} (h : coreStep s = .next t) : t.done = true ∧ t.irqEn = s.irqEn := by
  obtain ⟨i, -, h⟩ | ⟨e, -, rfl⟩ := coreStep_cases h
  · obtain ⟨e, u, rfl | rfl, rfl⟩ | ⟨len, aux, f, ns, c, m, rfl⟩ := exec_cases h <;> exact ⟨rfl, rfl⟩
  · exact ⟨rfl, rfl⟩

/-- DONE after a host operation was set before it. -/
theorem hostAct_done {op : HostOp} {s t : State} (h : hostAct op s = .next t) (ht : t.done = true) :
    s.done = true := by
  obtain ⟨-, rfl⟩ | ⟨w, off, v, -, rfl⟩ | ⟨a, v, -, -, rfl⟩ | ⟨d, ops, reads, rfl⟩ := hostAct_effect h
  · exact nomatch ht
  · obtain haccept | ⟨-, -, -, -, -, -, hdone⟩ := csrWrite_report w off v s
    · rw [haccept] at ht
      exact nomatch ht
    · by_contra hs
      exact nomatch ht.symm.trans (hdone (Bool.not_eq_true _ ▸ hs))
  · exact ht
  · exact ht

theorem bit_zero_eq (b : Bool) : bit b 0 = if b then 1#32 else 0 := by
  cases b <;> rfl

/-- Settles O16: irq needs DONE and IRQ_EN, only the core's completions set DONE, and `waitIrq` ends on the level it
samples. -/
theorem irqFollowsDone : Obligations.IrqFollowsDone := by
  unfold Obligations.IrqFollowsDone
  intro s
  refine ⟨rfl, fun v hv => (statusWriteClears s v).2 hv, fun w hp => ?_, fun v => ?_, ?_, fun t hagent h => ?_,
    fun op t => hostAct_done, ?_, fun hirq => ?_, fun hirq => ?_⟩
  · rw [csrWrite_listed (c := .cmd) rfl rfl, csrWriteTo, idleWrite_idle _ hp]
    exact irq_eq_false_of_done (accept_done s w)
  · rw [csrWrite_listed (c := .ctrl) rfl rfl]
    rfl
  · exact irq_eq_false_of_done (hwReset_done s)
  · rw [step_core hagent] at h
    obtain ⟨hdone, hirqEn⟩ := coreStep_done h
    rw [irq, hdone, hirqEn, Bool.and_true]
  · rw [hostAct, irqRead, giveHost, bit_zero_eq]
  · rw [hostAct, waitIrqOnce, if_pos hirq]
  · rw [hostAct, waitIrqOnce, if_neg (Bool.eq_false_iff.1 hirq)]

end Sys2Proof.Machine
end

section
/-! PROOFS. Every command completes, and what all commands leave unchanged (70_reset_and_hazards.md R931). -/

namespace Sys2Proof.Machine

theorem decodeChecked_next (s : State) : ∃ t, decodeChecked s = .next t := by
  rw [decodeChecked]
  cases decodeCommand s <;> exact ⟨_, rfl⟩

/-- No command faults or is refused: each outcome of what a command computes has a completion. -/
theorem exec_next (i : Instr) (s : State) : ∃ t, exec i s = .next t := by
  cases i with
  | nop => exact ⟨_, exec_nop s⟩
  | clear => exact ⟨_, exec_clear s⟩
  | count =>
    rw [exec, execCount]
    cases countCommand s <;> exact ⟨_, rfl⟩
  | parseft =>
    rw [exec, execParseft]
    cases parseCommand s <;> exact ⟨_, rfl⟩
  | build =>
    rw [exec, execBuild]
    cases buildCommand s <;> exact ⟨_, rfl⟩
  | gencode =>
    rw [exec, execGencode]
    cases s.nodes <;> exact ⟨_, rfl⟩
  | encode =>
    rw [exec, execEncode]
    cases encodeCommand s <;> exact ⟨_, rfl⟩
  | decode =>
    rw [exec, execDecode]
    cases checkRegions s with
    | error e => exact ⟨_, rfl⟩
    | ok => exact decodeChecked_next s

/-- Settles O23: every command ends in `raiseErr` or `complete`, which set PHASE and DONE, over a state that differs in the
tables and BUF only. -/
theorem everyCommandCompletes : Obligations.EveryCommandCompletes := by
  unfold Obligations.EveryCommandCompletes
  intro i s
  obtain ⟨t, h⟩ := exec_next i s
  refine ⟨t, h, ?_⟩
  obtain ⟨e, u, rfl | rfl, rfl⟩ | ⟨len, aux, f, ns, c, m, rfl⟩ := exec_cases h <;> and_intros <;> rfl

end Sys2Proof.Machine
end
